-- ==== Sys2Proof/Word.lean ====
section
/-! DEFINITION. The word types of the link block: bytes and the 16- and 32-bit fields of a frame
(spec/00_scope.md R11: `uN` is an unsigned integer of N bits). -/

namespace Sys2Proof

/-- `u8`: one byte, the addressable unit of the receive buffer and the unit of the wire format (R11, R40). -/
abbrev Byte := BitVec 8

/-- `u16`: `sequence`, `length`, `checksum`, a channel value, the CRC remainder (R11, R60, R90). -/
abbrev U16 := BitVec 16

/-- `u32`: `timestamp` (R11, R60). -/
abbrev U32 := BitVec 32

end Sys2Proof
end

