-- ==== Sys2Proof/Config.lean ====
section
/-! DEFINITION. The implementation parameters of spec/00_scope.md R6: the two open parameters of an instance
(a record, so that every claim is over all of their values), the constants the protocol fixes, and the one
free value. -/

namespace Sys2Proof

/-- The parameters fixed when an instance is constructed (R6, R201 item 1); no operation changes them. -/
structure Config where
  /-- `BUF_CAP`: capacity of the receive buffer in bytes (R6; decision D2: OPEN, default 512). -/
  bufCap : Nat
  /-- `CNT_W`: width of each statistics counter in bits (R6; decision D10: OPEN, default 32). -/
  cntW : Nat
deriving DecidableEq, Repr

namespace Config

/-- The defaults of R6: `BUF_CAP = 512`, `CNT_W = 32`. -/
def defaults : Config where
  bufCap := 512
  cntW := 32

/-- `START_MARKER` `0xAA55`, first wire byte (R6, R61). -/
abbrev marker0 : Byte := 0xAA#8

/-- `START_MARKER` `0xAA55`, second wire byte (R6, R61). -/
abbrev marker1 : Byte := 0x55#8

/-- `PROTO_VERSION` (R6, R62). -/
abbrev version : Byte := 0x01#8

/-- `MIN_FRAME_LEN`: a frame with an empty payload (R6, R60). -/
abbrev minFrameLen : Nat := 14

/-- `HDR_LEN`: start marker to length field inclusive (R6). -/
abbrev hdrLen : Nat := 12

/-- `MAX_PAYLOAD`: the sender-side bound on a payload (R6, R66). -/
abbrev maxPayload : Nat := 16

/-- `MAX_FRAME_LEN = 14 + 16` (R6). -/
abbrev maxFrameLen : Nat := 30

/-- `CRC_POLY` (R6, R90). -/
abbrev crcPoly : U16 := 0x1021#16

/-- `CRC_INIT` (R6, R90). -/
abbrev crcInit : U16 := 0xFFFF#16

/-- `CRC_XOROUT` (R6, R90). -/
abbrev crcXorOut : U16 := 0x0000#16

/-- `CMD_MIN`: the lowest channel value (R6, R68). -/
abbrev cmdMin : Int := 0

/-- `CMD_MID`: the neutral channel value (R6, R68). -/
abbrev cmdMid : Int := 5000

/-- `CMD_MAX`: the highest channel value (R6, R68). -/
abbrev cmdMax : Int := 10000

/-- The constraint `BUF_CAP >= MAX_FRAME_LEN` (R7, R201 item 1). -/
def ok (c : Config) : Bool := decide (maxFrameLen ≤ c.bufCap)

/-- What a read beyond the occupied bytes would give: ANY VALUE (spec/93_implementation_defined.md U9, R23, R44).
No rule reads there, since each establishes its bound first; the constant has no body, so nothing can be proved of it.
DESIGN CHOICE (log entry 2): a free value in place of a partial function; safe. -/
opaque unspecifiedByte : Nat → Byte

end Config

end Sys2Proof
end

