-- ==== Sys2Proof/Syntax.lean ====
section
/-! DEFINITION. The instructions: one constructor for each of the 22 rows of spec/opcode_table.json, six frame
types of the wire format (spec/30_encoding.md R60, R63) and sixteen operations of the block (R74). -/

namespace Sys2Proof

/-- The four statistics counters, numbered 0 to 3 for STATS_READ (R27, R170). -/
inductive Counter where
  | ok
  | crcErr
  | lenErr
  | unsupported
deriving DecidableEq, Repr

/-- The eight channels `v[0..7]` of a COMMAND payload, channel 0 first (R68; `N_CH = 8`, R6). -/
structure Channels (α : Type) where
  c0 : α
  c1 : α
  c2 : α
  c3 : α
  c4 : α
  c5 : α
  c6 : α
  c7 : α
deriving DecidableEq, Repr

/-- The instruction set. A frame constructor carries every field of the wire frame that its row leaves open
(sequence, timestamp, payload, and the received checksum, right or wrong); the length field is the payload's
length. An operation constructor carries the operands of R74. -/
inductive Instr where
  /-- COMMAND frame, `message_id = 0x01` (R117). -/
  | command (sequence : U16) (timestamp : U32) (payload : List Byte) (checksum : U16)
  /-- HEARTBEAT frame, `message_id = 0x10` (R118). -/
  | heartbeat (sequence : U16) (timestamp : U32) (payload : List Byte) (checksum : U16)
  /-- HEARTBEAT_ACK frame, `message_id = 0x11` (R119). -/
  | heartbeatAck (sequence : U16) (timestamp : U32) (payload : List Byte) (checksum : U16)
  /-- Frame with the reserved `message_id = 0x20` (R120). -/
  | reserved20 (sequence : U16) (timestamp : U32) (payload : List Byte) (checksum : U16)
  /-- Frame with the reserved `message_id = 0x40` (R120). -/
  | reserved40 (sequence : U16) (timestamp : U32) (payload : List Byte) (checksum : U16)
  /-- Frame with any of the 251 unassigned `message_id` values (R120, R63). -/
  | unsupportedId (messageId : Byte) (sequence : U16) (timestamp : U32) (payload : List Byte) (checksum : U16)
  /-- RESET, select code `0x00` (R172). -/
  | reset
  /-- STATS_READ, select code `0x01` (R170). -/
  | statsRead (idx : Counter)
  /-- STATS_CLEAR, select code `0x02` (R171). -/
  | statsClear
  /-- CRC_INIT, select code `0x10` (R93). -/
  | crcInit
  /-- CRC_BYTE, select code `0x11` (R94). -/
  | crcByte (b : Byte)
  /-- CRC_READ, select code `0x12` (R95). -/
  | crcRead
  /-- CRC_BLOCK, select code `0x13` (R96). -/
  | crcBlock (bytes : List Byte)
  /-- ENCODE, select code `0x20` (R110). -/
  | encodeFrame (messageId : Byte) (sequence : U16) (timestamp : U32) (payload : List Byte)
  /-- DECODE, select code `0x21` (R112). -/
  | decodeFrame (bytes : List Byte)
  /-- PACK_CMD, select code `0x22`: eight integers, negative ones included (R114, vector V32). -/
  | packCmd (v : Channels Int)
  /-- UNPACK_CMD, select code `0x23` (R115). -/
  | unpackCmd (payload : List Byte)
  /-- INGEST, select code `0x30` (R141). -/
  | ingest (chunk : List Byte)
  /-- SCAN_STEP, select code `0x31` (R143). -/
  | scanStep
  /-- DRAIN_NEXT, select code `0x32` (R144). -/
  | drainNext
  /-- DRAIN, select code `0x33` (R145). -/
  | drain
  /-- READY_CLEAR, select code `0x34` (R146). -/
  | readyClear
deriving DecidableEq, Repr

/-- Why the bytes at the request port are no instruction. -/
inductive Reject where
  /-- The port holds no byte. -/
  | empty
  /-- The bytes end inside an instruction. -/
  | truncated
  /-- The first byte is neither a select code of R74 nor the first byte of the start marker. -/
  | unassignedSelect (b : Byte)
  /-- `AA` not followed by `55`: a wrong marker is not a frame (opcode table, row UNSUPPORTED_ID). -/
  | badMarker (b : Byte)
  /-- A version byte other than `01` is not a frame of the table (opcode table, row UNSUPPORTED_ID). -/
  | badVersion (b : Byte)
  /-- STATS_READ with an index above 3, which "is not an operation of the block" (R170). -/
  | noSuchCounter (b : Byte)
  /-- A length or integer of the request port written with more bytes than it needs. -/
  | overlongNat
deriving DecidableEq, Repr

end Sys2Proof
end

