-- ==== Sys2Proof/Machine/Operands.lean ====
section
/-! DEFINITION. Operand assembly: how bytes of a byte sequence (a buffer, a slice, a payload) become fields and
back, all big-endian (spec/00_scope.md R12; spec/20_memory.md R41; spec/30_encoding.md section 2). -/

namespace Sys2Proof

/-- `s[i]` of R11. Beyond the end it is any value (U9); every rule that uses it establishes `i < |s|` first. -/
def byteAt (s : List Byte) (i : Nat) : Byte :=
  match s[i]? with
  | some b => b
  | none => Config.unspecifiedByte i

/-- `s[i..j)` of R11. -/
def slice (s : List Byte) (i j : Nat) : List Byte := (s.take j).drop i

/-- `be16(s, i) = s[i]*256 + s[i+1]` (R12). -/
def be16 (s : List Byte) (i : Nat) : U16 := byteAt s i ++ byteAt s (i + 1)

/-- `be32(s, i)`, most significant byte first (R12). -/
def be32 (s : List Byte) (i : Nat) : U32 := be16 s i ++ be16 s (i + 2)

/-- `bytes_be16(v) = [v[15:8], v[7:0]]` (R12). -/
def bytesBe16 (v : U16) : List Byte := [v.extractLsb' 8 8, v.extractLsb' 0 8]

/-- `bytes_be32(v) = [v[31:24], v[23:16], v[15:8], v[7:0]]` (R12). -/
def bytesBe32 (v : U32) : List Byte :=
  [v.extractLsb' 24 8, v.extractLsb' 16 8, v.extractLsb' 8 8, v.extractLsb' 0 8]

/-- The eight channels in payload order, channel 0 first (R68). -/
def Channels.toList {α : Type} (v : Channels α) : List α := [v.c0, v.c1, v.c2, v.c3, v.c4, v.c5, v.c6, v.c7]

/-- One function applied to each channel. -/
def Channels.map {α β : Type} (f : α → β) (v : Channels α) : Channels β where
  c0 := f v.c0
  c1 := f v.c1
  c2 := f v.c2
  c3 := f v.c3
  c4 := f v.c4
  c5 := f v.c5
  c6 := f v.c6
  c7 := f v.c7

/-- Channel `k` as a function of its number, for the payload layouts of R114 and R115. -/
def Channels.ofFn {α : Type} (f : Nat → α) : Channels α where
  c0 := f 0
  c1 := f 1
  c2 := f 2
  c3 := f 3
  c4 := f 4
  c5 := f 5
  c6 := f 6
  c7 := f 7

/-- The clamp of R114: `if v < 0 then 0 else if v > 10000 then 10000 else v`. -/
def clampChannel (v : Int) : Int :=
  if v < Config.cmdMin then Config.cmdMin else if Config.cmdMax < v then Config.cmdMax else v

/-- A clamped channel as its 16-bit wire value (R68, R114). -/
def channelWord (v : Int) : U16 := BitVec.ofInt 16 (clampChannel v)

/-- The twelve header bytes followed by the payload: a frame without its checksum (R60). -/
def frameHead (messageId : Byte) (sequence : U16) (timestamp : U32) (length : U16) (payload : List Byte) :
    List Byte :=
  [Config.marker0, Config.marker1, Config.version, messageId] ++ bytesBe16 sequence ++ bytesBe32 timestamp ++
    bytesBe16 length ++ payload

/-- The bytes of a wire frame with any checksum, fields in the order of R60; the length field is the payload's
byte count (R66). -/
def wireBytes (messageId : Byte) (sequence : U16) (timestamp : U32) (payload : List Byte) (checksum : U16) :
    List Byte :=
  frameHead messageId sequence timestamp (BitVec.ofNat 16 payload.length) payload ++ bytesBe16 checksum

end Sys2Proof
end

