-- ==== Sys2Proof/WellFormed.lean ====
section
/-! DEFINITION. Which instruction terms the encodings can express. -/

namespace Sys2Proof

/-- The five `message_id` values that R63 assigns or reserves. -/
def assignedIds : List Byte := [0x01#8, 0x10#8, 0x11#8, 0x20#8, 0x40#8]

/-- A payload whose byte count the 16-bit `length` field can hold (R66). -/
def payloadFits (payload : List Byte) : Bool := decide (payload.length < 2 ^ 16)

/-- Well-formedness: a frame's payload fits the length field (R66), and the catch-all row stands for the
unassigned identifiers only (R63; opcode table: "every message_id not matched by a row above"). Every operand
of an operation is unrestricted (R74). -/
def Instr.wf : Instr → Bool
  | .command _ _ p _ => payloadFits p
  | .heartbeat _ _ p _ => payloadFits p
  | .heartbeatAck _ _ p _ => payloadFits p
  | .reserved20 _ _ p _ => payloadFits p
  | .reserved40 _ _ p _ => payloadFits p
  | .unsupportedId id _ _ p _ => !assignedIds.contains id && payloadFits p
  | .reset => true
  | .statsRead _ => true
  | .statsClear => true
  | .crcInit => true
  | .crcByte _ => true
  | .crcRead => true
  | .crcBlock _ => true
  | .encodeFrame _ _ _ _ => true
  | .decodeFrame _ => true
  | .packCmd _ => true
  | .unpackCmd _ => true
  | .ingest _ => true
  | .scanStep => true
  | .drainNext => true
  | .drain => true
  | .readyClear => true

end Sys2Proof
end

