-- ==== Sys2Proof/Decode.lean ====
section
/-! DEFINITION. The decoder, total on any bytes and rejecting by name, and after it the encoder.

A wire frame is read by the layout of spec/30_encoding.md R60, `message_id` being its opcode. An operation is its
select code (R74) followed by its operands in the order of R74; the spec gives operands no bytes, so their layout
is the model's own (DESIGN CHOICE, log entry 4; unsafe for claims about those bytes): fixed-width operands big-endian, a byte sequence as its length
and its bytes, an integer as a zigzag natural; naturals in base-128 groups, least significant group first, so that
no length and no integer is out of reach. -/

namespace Sys2Proof

/-! ### The opcode table -/

/-- One row of spec/opcode_table.json: the first `width` bits of the instruction, under a mask. -/
structure OpcodeRow where
  mnemonic : String
  width : Nat
  mask : Nat
  pattern : Nat
deriving DecidableEq, Repr

/-- The six frame rows, over the first four bytes as one big-endian word; the last row is the catch-all. -/
def frameRows : List OpcodeRow :=
  [⟨"COMMAND", 32, 0xFFFFFFFF, 0xAA550101⟩, ⟨"HEARTBEAT", 32, 0xFFFFFFFF, 0xAA550110⟩,
   ⟨"HEARTBEAT_ACK", 32, 0xFFFFFFFF, 0xAA550111⟩, ⟨"RESERVED_20", 32, 0xFFFFFFFF, 0xAA550120⟩,
   ⟨"RESERVED_40", 32, 0xFFFFFFFF, 0xAA550140⟩, ⟨"UNSUPPORTED_ID", 32, 0xFFFFFF00, 0xAA550100⟩]

/-- The sixteen operation rows, over the select code (R74). -/
def opRows : List OpcodeRow :=
  [⟨"RESET", 8, 0xFF, 0x00⟩, ⟨"STATS_READ", 8, 0xFF, 0x01⟩, ⟨"STATS_CLEAR", 8, 0xFF, 0x02⟩,
   ⟨"CRC_INIT", 8, 0xFF, 0x10⟩, ⟨"CRC_BYTE", 8, 0xFF, 0x11⟩, ⟨"CRC_READ", 8, 0xFF, 0x12⟩,
   ⟨"CRC_BLOCK", 8, 0xFF, 0x13⟩, ⟨"ENCODE", 8, 0xFF, 0x20⟩, ⟨"DECODE", 8, 0xFF, 0x21⟩] ++
  [⟨"PACK_CMD", 8, 0xFF, 0x22⟩, ⟨"UNPACK_CMD", 8, 0xFF, 0x23⟩, ⟨"INGEST", 8, 0xFF, 0x30⟩,
   ⟨"SCAN_STEP", 8, 0xFF, 0x31⟩, ⟨"DRAIN_NEXT", 8, 0xFF, 0x32⟩, ⟨"DRAIN", 8, 0xFF, 0x33⟩,
   ⟨"READY_CLEAR", 8, 0xFF, 0x34⟩]

/-- The row of the opcode table that an instruction stands for. -/
def rowOf : Instr → OpcodeRow
  | .command _ _ _ _ => ⟨"COMMAND", 32, 0xFFFFFFFF, 0xAA550101⟩
  | .heartbeat _ _ _ _ => ⟨"HEARTBEAT", 32, 0xFFFFFFFF, 0xAA550110⟩
  | .heartbeatAck _ _ _ _ => ⟨"HEARTBEAT_ACK", 32, 0xFFFFFFFF, 0xAA550111⟩
  | .reserved20 _ _ _ _ => ⟨"RESERVED_20", 32, 0xFFFFFFFF, 0xAA550120⟩
  | .reserved40 _ _ _ _ => ⟨"RESERVED_40", 32, 0xFFFFFFFF, 0xAA550140⟩
  | .unsupportedId _ _ _ _ _ => ⟨"UNSUPPORTED_ID", 32, 0xFFFFFF00, 0xAA550100⟩
  | .reset => ⟨"RESET", 8, 0xFF, 0x00⟩
  | .statsRead _ => ⟨"STATS_READ", 8, 0xFF, 0x01⟩
  | .statsClear => ⟨"STATS_CLEAR", 8, 0xFF, 0x02⟩
  | .crcInit => ⟨"CRC_INIT", 8, 0xFF, 0x10⟩
  | .crcByte _ => ⟨"CRC_BYTE", 8, 0xFF, 0x11⟩
  | .crcRead => ⟨"CRC_READ", 8, 0xFF, 0x12⟩
  | .crcBlock _ => ⟨"CRC_BLOCK", 8, 0xFF, 0x13⟩
  | .encodeFrame _ _ _ _ => ⟨"ENCODE", 8, 0xFF, 0x20⟩
  | .decodeFrame _ => ⟨"DECODE", 8, 0xFF, 0x21⟩
  | .packCmd _ => ⟨"PACK_CMD", 8, 0xFF, 0x22⟩
  | .unpackCmd _ => ⟨"UNPACK_CMD", 8, 0xFF, 0x23⟩
  | .ingest _ => ⟨"INGEST", 8, 0xFF, 0x30⟩
  | .scanStep => ⟨"SCAN_STEP", 8, 0xFF, 0x31⟩
  | .drainNext => ⟨"DRAIN_NEXT", 8, 0xFF, 0x32⟩
  | .drain => ⟨"DRAIN", 8, 0xFF, 0x33⟩
  | .readyClear => ⟨"READY_CLEAR", 8, 0xFF, 0x34⟩

/-- The number that bytes spell, most significant first. -/
def beNat (s : List Byte) : Nat := s.foldl (fun acc b => acc * 256 + b.toNat) 0

/-- A byte sequence whose first `width` bits match the row. -/
def OpcodeRow.fits (r : OpcodeRow) (s : List Byte) : Bool :=
  decide (r.width / 8 ≤ s.length) && beNat (s.take (r.width / 8)) &&& r.mask == r.pattern

/-- Two rows that one word can match at once. -/
def OpcodeRow.overlaps (a b : OpcodeRow) : Bool :=
  a.width == b.width && a.pattern &&& (a.mask &&& b.mask) == b.pattern &&& (a.mask &&& b.mask)

/-- The operations, as the select code names them (R74). -/
inductive Select where
  | reset
  | statsRead
  | statsClear
  | crcInit
  | crcByte
  | crcRead
  | crcBlock
  | encodeFrame
  | decodeFrame
  | packCmd
  | unpackCmd
  | ingest
  | scanStep
  | drainNext
  | drain
  | readyClear
deriving DecidableEq, Repr

/-- The select code column of R74. -/
def Select.code : Select → Byte
  | .reset => 0x00#8
  | .statsRead => 0x01#8
  | .statsClear => 0x02#8
  | .crcInit => 0x10#8
  | .crcByte => 0x11#8
  | .crcRead => 0x12#8
  | .crcBlock => 0x13#8
  | .encodeFrame => 0x20#8
  | .decodeFrame => 0x21#8
  | .packCmd => 0x22#8
  | .unpackCmd => 0x23#8
  | .ingest => 0x30#8
  | .scanStep => 0x31#8
  | .drainNext => 0x32#8
  | .drain => 0x33#8
  | .readyClear => 0x34#8

/-- The select codes in the order of R74. -/
def allSelects : List Select :=
  [.reset, .statsRead, .statsClear, .crcInit, .crcByte, .crcRead, .crcBlock, .encodeFrame, .decodeFrame, .packCmd,
   .unpackCmd, .ingest, .scanStep, .drainNext, .drain, .readyClear]

/-- The operation a select code names, none for the 240 other bytes. -/
def Select.ofByte (b : Byte) : Option Select := allSelects.find? (fun c => c.code == b)

/-- The index of R170: `[stat_ok, stat_crc_err, stat_len_err, stat_unsupported]`. -/
def Counter.code : Counter → Byte
  | .ok => 0#8
  | .crcErr => 1#8
  | .lenErr => 2#8
  | .unsupported => 3#8

/-- The counter an index names, none above 3 (R170). -/
def Counter.ofByte (b : Byte) : Option Counter :=
  [Counter.ok, Counter.crcErr, Counter.lenErr, Counter.unsupported].find? (fun c => c.code == b)

/-! ### Reading operands -/

/-- One byte. -/
def getByte : List Byte → Except Reject (Byte × List Byte)
  | [] => .error .truncated
  | b :: rest => .ok (b, rest)

/-- A big-endian 16-bit field (R41). -/
def getU16 : List Byte → Except Reject (U16 × List Byte)
  | b1 :: b0 :: rest => .ok (b1 ++ b0, rest)
  | _ => .error .truncated

/-- A big-endian 32-bit field (R41). -/
def getU32 : List Byte → Except Reject (U32 × List Byte)
  | b3 :: b2 :: b1 :: b0 :: rest => .ok ((b3 ++ b2 : U16) ++ (b1 ++ b0 : U16), rest)
  | _ => .error .truncated

/-- The next `n` bytes. -/
def getBytes (n : Nat) (s : List Byte) : Except Reject (List Byte × List Byte) :=
  if s.length < n then .error .truncated else .ok (s.take n, s.drop n)

/-- A natural in base-128 groups, least significant first, the top bit of a byte saying that more follow. -/
def getNat : List Byte → Except Reject (Nat × List Byte)
  | [] => .error .truncated
  | b :: rest =>
    if b.toNat < 128 then .ok (b.toNat, rest)
    else
      match getNat rest with
      | .error e => .error e
      | .ok (high, rest') =>
        if high = 0 then .error .overlongNat else .ok (b.toNat - 128 + 128 * high, rest')

/-- A byte sequence: its length, then its bytes. -/
def getSeq (s : List Byte) : Except Reject (List Byte × List Byte) :=
  match getNat s with
  | .error e => .error e
  | .ok (n, rest) => getBytes n rest

/-- The integer of a zigzag natural: even for `0, 1, 2, …`, odd for `-1, -2, …`. -/
def unzigzag (n : Nat) : Int := if n % 2 = 0 then Int.ofNat (n / 2) else Int.negSucc (n / 2)

/-- An integer operand. -/
def getInt (s : List Byte) : Except Reject (Int × List Byte) :=
  match getNat s with
  | .error e => .error e
  | .ok (n, rest) => .ok (unzigzag n, rest)

/-- The eight integers of PACK_CMD, `v[0]` first. -/
def getChannels (s : List Byte) : Except Reject (Channels Int × List Byte) := do
  let (c0, s) ← getInt s
  let (c1, s) ← getInt s
  let (c2, s) ← getInt s
  let (c3, s) ← getInt s
  let (c4, s) ← getInt s
  let (c5, s) ← getInt s
  let (c6, s) ← getInt s
  let (c7, s) ← getInt s
  return (⟨c0, c1, c2, c3, c4, c5, c6, c7⟩, s)

/-! ### The decoder -/

/-- The frame row that a `message_id` selects (R63; the last row is the catch-all). -/
def frameInstr (id : Byte) (sequence : U16) (timestamp : U32) (payload : List Byte) (checksum : U16) : Instr :=
  if id = 0x01#8 then .command sequence timestamp payload checksum
  else if id = 0x10#8 then .heartbeat sequence timestamp payload checksum
  else if id = 0x11#8 then .heartbeatAck sequence timestamp payload checksum
  else if id = 0x20#8 then .reserved20 sequence timestamp payload checksum
  else if id = 0x40#8 then .reserved40 sequence timestamp payload checksum
  else .unsupportedId id sequence timestamp payload checksum

/-- The rest of a wire frame after `AA 55 01` (R60). -/
def decodeFields (s : List Byte) : Except Reject (Instr × List Byte) := do
  let (id, s) ← getByte s
  let (sequence, s) ← getU16 s
  let (timestamp, s) ← getU32 s
  let (length, s) ← getU16 s
  let (payload, s) ← getBytes length.toNat s
  let (checksum, s) ← getU16 s
  return (frameInstr id sequence timestamp payload checksum, s)

/-- The rest of a wire frame after `AA` (R60 to R62). -/
def decodeWire : List Byte → Except Reject (Instr × List Byte)
  | [] => .error .truncated
  | m :: rest =>
    if m ≠ Config.marker1 then .error (.badMarker m)
    else
      match rest with
      | [] => .error .truncated
      | v :: rest' => if v ≠ Config.version then .error (.badVersion v) else decodeFields rest'

/-- STATS_READ's operand: an index 0 to 3 (R170). -/
def decodeCounter (s : List Byte) : Except Reject (Instr × List Byte) := do
  let (b, s) ← getByte s
  match Counter.ofByte b with
  | some k => return (.statsRead k, s)
  | none => .error (.noSuchCounter b)

/-- ENCODE's operands (R74). -/
def decodeEncode (s : List Byte) : Except Reject (Instr × List Byte) := do
  let (id, s) ← getByte s
  let (sequence, s) ← getU16 s
  let (timestamp, s) ← getU32 s
  let (payload, s) ← getSeq s
  return (.encodeFrame id sequence timestamp payload, s)

/-- The operands that a select code asks for (R74). -/
def decodeOperands (c : Select) (s : List Byte) : Except Reject (Instr × List Byte) :=
  match c with
  | .reset => .ok (.reset, s)
  | .statsRead => decodeCounter s
  | .statsClear => .ok (.statsClear, s)
  | .crcInit => .ok (.crcInit, s)
  | .crcByte => (getByte s).map fun p => (.crcByte p.1, p.2)
  | .crcRead => .ok (.crcRead, s)
  | .crcBlock => (getSeq s).map fun p => (.crcBlock p.1, p.2)
  | .encodeFrame => decodeEncode s
  | .decodeFrame => (getSeq s).map fun p => (.decodeFrame p.1, p.2)
  | .packCmd => (getChannels s).map fun p => (.packCmd p.1, p.2)
  | .unpackCmd => (getSeq s).map fun p => (.unpackCmd p.1, p.2)
  | .ingest => (getSeq s).map fun p => (.ingest p.1, p.2)
  | .scanStep => .ok (.scanStep, s)
  | .drainNext => .ok (.drainNext, s)
  | .drain => .ok (.drain, s)
  | .readyClear => .ok (.readyClear, s)

/-- The first instruction of a byte sequence and the bytes after it, or why there is none. -/
def decode : List Byte → Except Reject (Instr × List Byte)
  | [] => .error .empty
  | b :: rest =>
    if b = Config.marker0 then decodeWire rest
    else
      match Select.ofByte b with
      | some c => decodeOperands c rest
      | none => .error (.unassignedSelect b)

/-! ### The encoder -/

/-- A natural in base-128 groups; `fuel` bounds the groups, and `fuel = n` is always enough. -/
def putNatFuel : Nat → Nat → List Byte
  | 0, n => [BitVec.ofNat 8 n]
  | fuel + 1, n =>
    if n < 128 then [BitVec.ofNat 8 n] else BitVec.ofNat 8 (128 + n % 128) :: putNatFuel fuel (n / 128)

/-- A natural operand. -/
def putNat (n : Nat) : List Byte := putNatFuel n n

/-- A byte sequence operand. -/
def putSeq (s : List Byte) : List Byte := putNat s.length ++ s

/-- The zigzag natural of an integer. -/
def zigzag : Int → Nat
  | .ofNat n => 2 * n
  | .negSucc n => 2 * n + 1

/-- An integer operand. -/
def putInt (v : Int) : List Byte := putNat (zigzag v)

/-- PACK_CMD's operands. -/
def putChannels (v : Channels Int) : List Byte :=
  putInt v.c0 ++ putInt v.c1 ++ putInt v.c2 ++ putInt v.c3 ++ putInt v.c4 ++ putInt v.c5 ++ putInt v.c6 ++ putInt v.c7

/-- The bytes of an instruction: a frame as R60 lays it out, an operation as its select code and operands. -/
def encode : Instr → List Byte
  | .command q t p c => wireBytes 0x01#8 q t p c
  | .heartbeat q t p c => wireBytes 0x10#8 q t p c
  | .heartbeatAck q t p c => wireBytes 0x11#8 q t p c
  | .reserved20 q t p c => wireBytes 0x20#8 q t p c
  | .reserved40 q t p c => wireBytes 0x40#8 q t p c
  | .unsupportedId id q t p c => wireBytes id q t p c
  | .reset => [Select.code .reset]
  | .statsRead k => [Select.code .statsRead, k.code]
  | .statsClear => [Select.code .statsClear]
  | .crcInit => [Select.code .crcInit]
  | .crcByte b => [Select.code .crcByte, b]
  | .crcRead => [Select.code .crcRead]
  | .crcBlock s => Select.code .crcBlock :: putSeq s
  | .encodeFrame id q t p => Select.code .encodeFrame :: id :: (bytesBe16 q ++ bytesBe32 t ++ putSeq p)
  | .decodeFrame s => Select.code .decodeFrame :: putSeq s
  | .packCmd v => Select.code .packCmd :: putChannels v
  | .unpackCmd s => Select.code .unpackCmd :: putSeq s
  | .ingest s => Select.code .ingest :: putSeq s
  | .scanStep => [Select.code .scanStep]
  | .drainNext => [Select.code .drainNext]
  | .drain => [Select.code .drain]
  | .readyClear => [Select.code .readyClear]

/-! ### The opcode table's words -/

/-- The `n` bytes of a number, most significant first. -/
def beBytes : Nat → Nat → List Byte
  | 0, _ => []
  | n + 1, w => BitVec.ofNat 8 (w >>> (8 * n)) :: beBytes n w

/-- The bytes of `n` bytes' worth of table bits: 32-bit words, the first in the lowest bits, each big-endian (the opcode
table reads a frame's first four bytes "as a big-endian 32-bit word"); a select code is one byte. -/
def wordBytes : Nat → Nat → List Byte
  | n + 4, w => beBytes 4 w ++ wordBytes n (w >>> 32)
  | n, w => beBytes n w

/-- The bytes a table word stands for: the word's own bytes, then operand bytes of zero up to 14 bytes, the longest
that an instruction with zero operands takes. -/
def tableBytes (nbits w : Nat) : List Byte :=
  let word := wordBytes ((nbits + 7) / 8) w
  word ++ List.replicate (Config.minFrameLen - word.length) 0#8

/-- The instruction the decoder reads from a table word with zero operands. -/
def decodeTableWord (nbits w : Nat) : Option Instr :=
  match decode (tableBytes nbits w) with
  | .ok (i, _) => some i
  | .error _ => none

end Sys2Proof
end

