-- ==== Sys2Proof/Machine/State.lean ====
section
/-! DEFINITION. The state of one instance of the block (spec/10_state.md R20), the record and outcome types that
operations hand back (R22, spec/30_encoding.md R75), and the state after reset (R32). -/

namespace Sys2Proof.Machine

/-! ### Frames and outcomes: operand and result types, not block state (R22) -/

/-- The tag computed from `message_id` (R67). -/
inductive Kind where
  | command
  | heartbeat
  | heartbeatAck
  /-- Reserved and unassigned identifiers alike, with the raw identifier (R67, R120). -/
  | unsupported (id : Byte)
deriving DecidableEq, Repr

/-- The Frame record of R22; the start marker is not carried (decision D13). -/
structure Frame where
  version : Byte
  messageId : Byte
  kind : Kind
  sequence : U16
  timestamp : U32
  length : U16
  payload : List Byte
  checksum : U16
deriving DecidableEq, Repr

/-- Why SCAN_STEP discarded bytes (R75, R143). -/
inductive Reason where
  | noise
  | version
  | length
  | crc
deriving DecidableEq, Repr

/-- The result of SCAN_STEP (R74, R143). -/
inductive ScanResult where
  | wait
  | discard (reason : Reason) (n : Nat)
  | frame (f : Frame)
deriving DecidableEq, Repr

/-- The abnormal outcomes of DECODE (R112, R181). -/
inductive DecodeError where
  | badMarker
  | tooShort
  | badVersion
  | badLength
  | incomplete
  | badCrc
deriving DecidableEq, Repr

/-- The result of DECODE: the frame and its total length, or why there is none (R112). -/
inductive DecodeResult where
  | ok (f : Frame) (total : Nat)
  | error (e : DecodeError)
deriving DecidableEq, Repr

/-- The result of ENCODE (R110). -/
inductive EncodeResult where
  | ok (bytes : List Byte)
  | encLen
deriving DecidableEq, Repr

/-- The result of UNPACK_CMD (R115). -/
inductive UnpackResult where
  | ok (v : Channels U16)
  | badPayloadLen
deriving DecidableEq, Repr

/-- What an operation hands to its caller (the result column of R74). -/
inductive Returned where
  /-- The operation has no result. -/
  | nothing
  /-- STATS_READ: a counter's value. -/
  | count (value : Nat)
  /-- CRC_READ and CRC_BLOCK: a CRC. -/
  | crc (value : U16)
  /-- ENCODE. -/
  | encoded (r : EncodeResult)
  /-- DECODE. -/
  | decoded (r : DecodeResult)
  /-- PACK_CMD: sixteen bytes. -/
  | packed (bytes : List Byte)
  /-- UNPACK_CMD. -/
  | unpacked (r : UnpackResult)
  /-- SCAN_STEP. -/
  | scanned (r : ScanResult)
  /-- DRAIN_NEXT: FRAME(f), or IDLE (`none`). -/
  | next (r : Option Frame)
  /-- DRAIN, and the receipt of a wire frame: the frames yielded, in order. -/
  | frames (fs : List Frame)
deriving DecidableEq, Repr

/-- The outcome codes 0 to 10 of R75. -/
inductive OutcomeCode where
  | okFrame
  | badMarker
  | tooShort
  | badVersion
  | badLength
  | incomplete
  | badCrc
  | noise
  | waitIdle
  | encLen
  | badPayloadLen
deriving DecidableEq, Repr

/-! ### Memory -/

/-- The receive buffer, the block's only memory (R40), as the one list that R23 allows for `rx_buf` and `rx_len`
together: the occupied bytes, oldest first, so that the byte at offset `i` is entry `i` and `rx_len` is the length.
Offsets from `rx_len` on hold no value. Two buffers with the same occupied bytes are the same list. -/
abbrev Memory := List Byte

/-- The invariant of R24: the occupied length never exceeds the capacity. -/
def Memory.wf (cap : Nat) (m : Memory) : Bool := decide (m.length ≤ cap)

/-- The buffer as (offset, byte) cells, offsets rising from 0, nothing listed from `rx_len` on. -/
def Memory.cells (m : Memory) : List Host.Cell := m.zipIdx.map fun p => (p.2, p.1)

/-! ### State -/

/-- One instance: the parameters it was constructed with, the eight elements of R20 (`rx_buf` and `rx_len` as one
list), and the port through which agents issue operations and take results, which is the model's own. -/
structure State where
  /-- `BUF_CAP` and `CNT_W`, fixed at construction (R6, R201). -/
  cfg : Config
  /-- `rx_buf` and `rx_len` (R23, R24). -/
  rx : Memory
  /-- `data_ready` (R26). -/
  dataReady : Bool
  /-- `stat_ok` (R27); a natural below `2 ^ CNT_W` by the state invariant (R28; DEDUCED, log entry 7; unsafe if a device
  wraps). -/
  statOk : Nat
  /-- `stat_crc_err` (R27). -/
  statCrcErr : Nat
  /-- `stat_len_err` (R27). -/
  statLenErr : Nat
  /-- `stat_unsupported` (R27). -/
  statUnsupported : Nat
  /-- `crc_acc` (R29). -/
  crcAcc : U16
  /-- The bytes of the operations issued and not yet performed, in issue order: the model's own field
  (DESIGN CHOICE, log entry 3; unsafe for claims about runs through RESET).
  No operation reads or writes it; `step` takes the next operation from it. -/
  requests : List Byte
  /-- The result handed to the caller of the last operation: the model's own field (DESIGN CHOICE, log
  entry 3; safe). Every operation
  writes it and none reads it. -/
  returned : Returned
deriving DecidableEq, Repr

/-- `rx_len` (R24). -/
abbrev State.rxLen (s : State) : Nat := s.rx.length

/-- Why the block stops with a fault: there is no such reason, "No operation of the block traps, faults, halts or
hangs" (R180). Nothing raises one; every abnormal condition is a value in `State.returned`. -/
inductive Fault where
deriving DecidableEq, Repr

/-- Why there is no next state. -/
inductive Refusal where
  /-- Raised by `exec` for an instruction that has no meaning yet; safe (the model stops). -/
  | notModelled (mnemonic : String)
  /-- Raised by `step` when the bytes at the request port are no instruction of the opcode table; safe (the model
  stops where the block is never asked anything). -/
  | notAnOperation (why : Reject)
deriving DecidableEq, Repr

/-- An instance right after construction with parameters `c` (R32, R200). -/
def State.construct (c : Config) : State where
  cfg := c
  rx := []
  dataReady := false
  statOk := 0
  statCrcErr := 0
  statLenErr := 0
  statUnsupported := 0
  crcAcc := Config.crcInit
  requests := []
  returned := .nothing

/-- The machine after reset with the default parameters of R6 (R32). -/
def State.reset : State := State.construct Config.defaults

end Sys2Proof.Machine
end

