-- ==== Sys2Proof/Machine/Flags.lean ====
section
/-! DEFINITION. The one status flag, `data_ready` (spec/10_state.md R26), and the four statistics counters
(R27, R28). The block has no condition codes. -/

namespace Sys2Proof.Machine

/-- Set `data_ready` (R26). -/
def State.setReady (s : State) : State := { s with dataReady := true }

/-- Clear `data_ready` (R26). -/
def State.clearReady (s : State) : State := { s with dataReady := false }

/-- The largest value of a counter, `2^CNT_W - 1` (R28). -/
def counterMax (c : Config) : Nat := 2 ^ c.cntW - 1

/-- `sat_inc(c)` (R12, R28). -/
def satInc (cfg : Config) (c : Nat) : Nat := if c < counterMax cfg then c + 1 else c

/-- `stat_ok <- sat_inc(stat_ok)` (R27). -/
def State.countOk (s : State) : State := { s with statOk := satInc s.cfg s.statOk }

/-- `stat_crc_err <- sat_inc(stat_crc_err)` (R27). -/
def State.countCrcErr (s : State) : State := { s with statCrcErr := satInc s.cfg s.statCrcErr }

/-- `stat_len_err <- sat_inc(stat_len_err)` (R27). -/
def State.countLenErr (s : State) : State := { s with statLenErr := satInc s.cfg s.statLenErr }

/-- `stat_unsupported <- sat_inc(stat_unsupported)` (R27). -/
def State.countUnsupported (s : State) : State := { s with statUnsupported := satInc s.cfg s.statUnsupported }

/-- The counter that an index names (R170). -/
def State.counter (s : State) : Counter → Nat
  | .ok => s.statOk
  | .crcErr => s.statCrcErr
  | .lenErr => s.statLenErr
  | .unsupported => s.statUnsupported

/-- All four counters to zero (R171). -/
def State.clearCounters (s : State) : State :=
  { s with statOk := 0, statCrcErr := 0, statLenErr := 0, statUnsupported := 0 }

end Sys2Proof.Machine
end

