-- ==== Sys2Proof/Machine/Ops.lean ====
section
/-! DEFINITION. The named operations over the receive buffer (spec/20_memory.md R42 to R45), the delivery of an
outcome to the caller, which takes the place of exception entry (spec/60_exceptions.md R180, R186), and the outcome
codes (spec/30_encoding.md R75). -/

namespace Sys2Proof.Machine

/-! ### The receive buffer -/

/-- `BufPush(b)`: append one byte, dropping the oldest if the buffer is full (R42, the list view). -/
def bufPush (cap : Nat) (m : Memory) (b : Byte) : Memory :=
  (if m.length = cap then m.drop 1 else m) ++ [b]

/-- `BufAppend(chunk)`: `BufPush` of each byte in order (R43). -/
def bufAppend (cap : Nat) (m : Memory) (chunk : List Byte) : Memory := chunk.foldl (bufPush cap) m

/-- `BufDiscard(n)`: remove the `n` oldest bytes (R45). -/
def bufDiscard (m : Memory) (n : Nat) : Memory := m.drop n

/-- `MemRead(off, n)`: the big-endian value of `n` buffer bytes (R12, R44). Every use establishes
`off + n <= rx_len` first. -/
def memRead (m : Memory) (off : Nat) : Nat → Nat
  | 0 => 0
  | n + 1 => memRead m off n * 256 + (byteAt m (off + n)).toNat

/-- `rx <- BufAppend(chunk)` on a state. -/
def State.append (s : State) (chunk : List Byte) : State := { s with rx := bufAppend s.cfg.bufCap s.rx chunk }

/-- `BufDiscard(n)` on a state. -/
def State.discard (s : State) (n : Nat) : State := { s with rx := bufDiscard s.rx n }

/-! ### Outcomes -/

/-- Hand an outcome to the caller (R180, R186): the operation ends, nothing else is saved, no mode changes, and the
block accepts any operation next. There is no return operation to model beside it (R187). -/
def State.handBack (s : State) (r : Returned) : State := { s with returned := r }

/-- The number of an outcome code (R75). -/
def OutcomeCode.number : OutcomeCode → Nat
  | .okFrame => 0
  | .badMarker => 1
  | .tooShort => 2
  | .badVersion => 3
  | .badLength => 4
  | .incomplete => 5
  | .badCrc => 6
  | .noise => 7
  | .waitIdle => 8
  | .encLen => 9
  | .badPayloadLen => 10

/-- The code of a discard reason (R75: VERSION 3, LENGTH 4, CRC 6, NOISE 7). -/
def Reason.code : Reason → OutcomeCode
  | .noise => .noise
  | .version => .badVersion
  | .length => .badLength
  | .crc => .badCrc

/-- The code of a DECODE error (R75). -/
def DecodeError.code : DecodeError → OutcomeCode
  | .badMarker => .badMarker
  | .tooShort => .tooShort
  | .badVersion => .badVersion
  | .badLength => .badLength
  | .incomplete => .incomplete
  | .badCrc => .badCrc

/-- The outcome code of a result, for the five operations whose results R75 numbers. -/
def Returned.code : Returned → Option OutcomeCode
  | .encoded (.ok _) => some .okFrame
  | .encoded .encLen => some .encLen
  | .decoded (.ok _ _) => some .okFrame
  | .decoded (.error e) => some e.code
  | .unpacked (.ok _) => some .okFrame
  | .unpacked .badPayloadLen => some .badPayloadLen
  | .scanned .wait => some .waitIdle
  | .scanned (.discard r _) => some r.code
  | .scanned (.frame _) => some .okFrame
  | .next (some _) => some .okFrame
  | .next none => some .waitIdle
  | .nothing => none
  | .count _ => none
  | .crc _ => none
  | .packed _ => none
  | .frames _ => none

end Sys2Proof.Machine
end

