-- ==== Sys2Proof/Machine/Crc.lean ====
section
/-! DEFINITION. The CRC unit (spec/40_crc.md): the function of R90 to R92 and the operations of R93 to R96. -/

namespace Sys2Proof.Machine

/-- One shift of the remainder: `if c[15] = 1 then ((c << 1) mod 2^16) XOR 0x1021 else (c << 1) mod 2^16` (R92). -/
def crcShift (c : U16) : U16 := if c.getLsbD 15 then (c <<< 1) ^^^ Config.crcPoly else c <<< 1

/-- `n` shifts. -/
def crcShifts : Nat → U16 → U16
  | 0, c => c
  | n + 1, c => crcShifts n (crcShift c)

/-- `CrcStep(c, b)`: the byte meets the top eight bits of the remainder, then eight shifts (R92). -/
def crcStep (c : U16) (b : Byte) : U16 := crcShifts 8 (c ^^^ (b.setWidth 16 <<< 8))

/-- `CrcStep` folded over a byte sequence from a running remainder (R91, R97 item 2). -/
def crcFrom (c : U16) (s : List Byte) : U16 := s.foldl crcStep c

/-- `crc16(s)` (R91). -/
def crc16 (s : List Byte) : U16 := crcFrom Config.crcInit s ^^^ Config.crcXorOut

/-- CRC_INIT (R93). -/
def execCrcInit (s : State) : Host.Outcome State Fault Refusal :=
  .next ({ s with crcAcc := Config.crcInit }.handBack .nothing)

/-- CRC_BYTE (R94). -/
def execCrcByte (b : Byte) (s : State) : Host.Outcome State Fault Refusal :=
  .next ({ s with crcAcc := crcStep s.crcAcc b }.handBack .nothing)

/-- CRC_READ (R95): the register with the final XOR of `0x0000` is the CRC. -/
def execCrcRead (s : State) : Host.Outcome State Fault Refusal :=
  .next (s.handBack (.crc (s.crcAcc ^^^ Config.crcXorOut)))

/-- CRC_BLOCK (R96): the pure function, without `crc_acc`. -/
def execCrcBlock (bytes : List Byte) (s : State) : Host.Outcome State Fault Refusal :=
  .next (s.handBack (.crc (crc16 bytes)))

end Sys2Proof.Machine
end

