-- ==== Sys2Proof/Machine/Codec.lean ====
section
/-! DEFINITION. The frame codec (spec/41_frame_codec.md): pure functions of their operands; the operations ENCODE,
DECODE, PACK_CMD and UNPACK_CMD, and the three derived constructors of R117 to R119. -/

namespace Sys2Proof.Machine

/-- `Kind(id)` (R67). -/
def kindOf (id : Byte) : Kind :=
  if id = 0x01#8 then .command
  else if id = 0x10#8 then .heartbeat
  else if id = 0x11#8 then .heartbeatAck
  else .unsupported id

/-- `ENCODE(message_id, sequence, timestamp, payload)` (R110). -/
def codecEncode (messageId : Byte) (sequence : U16) (timestamp : U32) (payload : List Byte) : EncodeResult :=
  if Config.maxPayload < payload.length then .encLen
  else
    let head := frameHead messageId sequence timestamp (BitVec.ofNat 16 payload.length) payload
    .ok (head ++ bytesBe16 (crc16 (head.drop 2)))

/-- `ParseFrame(s)` (R113). -/
def parseFrame (s : List Byte) : Frame where
  version := byteAt s 2
  messageId := byteAt s 3
  kind := kindOf (byteAt s 3)
  sequence := be16 s 4
  timestamp := be32 s 6
  length := be16 s 10
  payload := slice s 12 (12 + (be16 s 10).toNat)
  checksum := be16 s (12 + (be16 s 10).toNat)

/-- `DECODE(s)` with `BUF_CAP = cap`; the first test that fails decides (R112, R184). -/
def codecDecode (cap : Nat) (s : List Byte) : DecodeResult :=
  if s.length < Config.minFrameLen then .error .tooShort
  else if byteAt s 0 ≠ Config.marker0 ∨ byteAt s 1 ≠ Config.marker1 then .error .badMarker
  else if byteAt s 2 ≠ Config.version then .error .badVersion
  else
    let length := (be16 s 10).toNat
    let total := Config.minFrameLen + length
    if cap < total then .error .badLength
    else if s.length < total then .error .incomplete
    else if crc16 (slice s 2 (12 + length)) ≠ be16 s (12 + length) then .error .badCrc
    else .ok (parseFrame s) total

/-- `PACK_CMD(v)` (R114). -/
def packCmd (v : Channels Int) : List Byte := v.toList.flatMap fun x => bytesBe16 (channelWord x)

/-- `UNPACK_CMD(payload)` (R115): the raw values, no range check. -/
def unpackCmd (payload : List Byte) : UnpackResult :=
  if payload.length ≠ 16 then .badPayloadLen else .ok (Channels.ofFn fun k => be16 payload (2 * k))

/-- ENCODE (R110). -/
def execEncodeFrame (messageId : Byte) (sequence : U16) (timestamp : U32) (payload : List Byte) (s : State) :
    Host.Outcome State Fault Refusal :=
  .next (s.handBack (.encoded (codecEncode messageId sequence timestamp payload)))

/-- DECODE (R112); `BUF_CAP` is a configuration constant, not state. -/
def execDecodeFrame (bytes : List Byte) (s : State) : Host.Outcome State Fault Refusal :=
  .next (s.handBack (.decoded (codecDecode s.cfg.bufCap bytes)))

/-- PACK_CMD (R114). -/
def execPackCmd (v : Channels Int) (s : State) : Host.Outcome State Fault Refusal :=
  .next (s.handBack (.packed (packCmd v)))

/-- UNPACK_CMD (R115). -/
def execUnpackCmd (payload : List Byte) (s : State) : Host.Outcome State Fault Refusal :=
  .next (s.handBack (.unpacked (unpackCmd payload)))

/-! ### The derived constructors, each defined as one ENCODE (R76) -/

/-- `ENCODE_COMMAND(sequence, timestamp, v)` (R117). -/
def encodeCommand (sequence : U16) (timestamp : U32) (v : Channels Int) : Instr :=
  .encodeFrame 0x01#8 sequence timestamp (packCmd v)

/-- `ENCODE_HEARTBEAT(sequence, timestamp)` (R118). -/
def encodeHeartbeat (sequence : U16) (timestamp : U32) : Instr := .encodeFrame 0x10#8 sequence timestamp []

/-- `ENCODE_ACK(sequence, timestamp)` (R119). -/
def encodeAck (sequence : U16) (timestamp : U32) : Instr := .encodeFrame 0x11#8 sequence timestamp []

end Sys2Proof.Machine
end

