-- ==== Sys2Proof/Machine/Stream.lean ====
section
/-! DEFINITION. The stream reassembler (spec/42_stream_reassembler.md): INGEST, the scan, the two drains, and
READY_CLEAR. -/

namespace Sys2Proof.Machine

/-- `INGEST(chunk)` (R141): an empty chunk changes nothing; the flag is set last. -/
def ingest (chunk : List Byte) (s : State) : State := if chunk = [] then s else (s.append chunk).setReady

/-- `FindMarker()` (R142): the least offset at which `AA 55` stands. -/
def findMarker : Memory → Option Nat
  | [] => none
  | [_] => none
  | a :: b :: rest =>
    if a = Config.marker0 ∧ b = Config.marker1 then some 0 else (findMarker (b :: rest)).map (· + 1)

/-- Step 1 of SCAN_STEP with no marker in the buffer (R143, decision D8): all bytes but one trailing `AA` go. -/
def scanNoMarker (s : State) : ScanResult × State :=
  let keep := if 1 ≤ s.rxLen ∧ byteAt s.rx (s.rxLen - 1) = Config.marker0 then 1 else 0
  if s.rxLen - keep = 0 then (.wait, s) else (.discard .noise (s.rxLen - keep), s.discard (s.rxLen - keep))

/-- Steps 2 to 7 of SCAN_STEP, the marker standing at offset 0 (R143). -/
def scanCandidate (s : State) : ScanResult × State :=
  if s.rxLen < Config.minFrameLen then (.wait, s)
  else if byteAt s.rx 2 ≠ Config.version then (.discard .version 1, s.countUnsupported.discard 1)
  else
    let length := memRead s.rx 10 2
    let total := Config.minFrameLen + length
    if s.cfg.bufCap < total then (.discard .length 1, s.countLenErr.discard 1)
    else if s.rxLen < total then (.wait, s)
    else if (crc16 (slice s.rx 2 (12 + length))).toNat ≠ memRead s.rx (12 + length) 2 then
      (.discard .crc 1, s.countCrcErr.discard 1)
    else (.frame (parseFrame (slice s.rx 0 total)), (s.discard total).countOk)

/-- `SCAN_STEP()` (R143). -/
def scanStep (s : State) : ScanResult × State :=
  match findMarker s.rx with
  | none => scanNoMarker s
  | some off => if 0 < off then (.discard .noise off, s.discard off) else scanCandidate s

/-- The loop of DRAIN_NEXT (R144); `fuel` bounds the SCAN_STEPs. -/
def drainNextFuel : Nat → State → Option Frame × State
  | 0, s => (none, s)
  | fuel + 1, s =>
    match scanStep s with
    | (.wait, s') => (none, s')
    | (.frame f, s') => (some f, s')
    | (.discard _ _, s') => drainNextFuel fuel s'

/-- `DRAIN_NEXT()` (R144): FRAME(f), or IDLE as `none`; at most `rx_len + 1` SCAN_STEPs (R147). -/
def drainNext (s : State) : Option Frame × State := drainNextFuel (s.rxLen + 1) s

/-- The loop of DRAIN (R145); `fuel` bounds the DRAIN_NEXTs. -/
def drainFuel : Nat → State → List Frame × State
  | 0, s => ([], s)
  | fuel + 1, s =>
    match drainNext s with
    | (none, s') => ([], s')
    | (some f, s') => (f :: (drainFuel fuel s').1, (drainFuel fuel s').2)

/-- `DRAIN()` (R145): every frame up to IDLE, in buffer order. -/
def drain (s : State) : List Frame × State := drainFuel (s.rxLen + 1) s

/-- INGEST (R141). -/
def execIngest (chunk : List Byte) (s : State) : Host.Outcome State Fault Refusal :=
  .next ((ingest chunk s).handBack .nothing)

/-- SCAN_STEP (R143). -/
def execScanStep (s : State) : Host.Outcome State Fault Refusal :=
  .next ((scanStep s).2.handBack (.scanned (scanStep s).1))

/-- DRAIN_NEXT (R144). -/
def execDrainNext (s : State) : Host.Outcome State Fault Refusal :=
  .next ((drainNext s).2.handBack (.next (drainNext s).1))

/-- DRAIN (R145). -/
def execDrain (s : State) : Host.Outcome State Fault Refusal :=
  .next ((drain s).2.handBack (.frames (drain s).1))

/-- READY_CLEAR (R146). -/
def execReadyClear (s : State) : Host.Outcome State Fault Refusal := .next (s.clearReady.handBack .nothing)

end Sys2Proof.Machine
end

