-- ==== Sys2Proof/Machine/Frames.lean ====
section
/-! DEFINITION. The six frame rows of the opcode table (spec/41_frame_codec.md R117 to R120), as what the block does
when the transport hands it that frame: the producer's INGEST of its bytes, then the consumer's DRAIN, the two
operations by which R141 to R148 say a frame is received (DESIGN CHOICE, log entry 5;
unsafe for claims about when a received frame is drained). -/

namespace Sys2Proof.Machine

/-- INGEST the bytes of one frame, then DRAIN; the result is what the DRAIN yields. -/
def receiveFrame (bytes : List Byte) (s : State) : Host.Outcome State Fault Refusal :=
  let d := drain (ingest bytes s)
  .next (d.2.handBack (.frames d.1))

/-- COMMAND (R117). -/
def execCommand (sequence : U16) (timestamp : U32) (payload : List Byte) (checksum : U16) (s : State) :
    Host.Outcome State Fault Refusal :=
  receiveFrame (wireBytes 0x01#8 sequence timestamp payload checksum) s

/-- HEARTBEAT (R118). -/
def execHeartbeat (sequence : U16) (timestamp : U32) (payload : List Byte) (checksum : U16) (s : State) :
    Host.Outcome State Fault Refusal :=
  receiveFrame (wireBytes 0x10#8 sequence timestamp payload checksum) s

/-- HEARTBEAT_ACK (R119). -/
def execHeartbeatAck (sequence : U16) (timestamp : U32) (payload : List Byte) (checksum : U16) (s : State) :
    Host.Outcome State Fault Refusal :=
  receiveFrame (wireBytes 0x11#8 sequence timestamp payload checksum) s

/-- RESERVED_20 (R120). -/
def execReserved20 (sequence : U16) (timestamp : U32) (payload : List Byte) (checksum : U16) (s : State) :
    Host.Outcome State Fault Refusal :=
  receiveFrame (wireBytes 0x20#8 sequence timestamp payload checksum) s

/-- RESERVED_40 (R120). -/
def execReserved40 (sequence : U16) (timestamp : U32) (payload : List Byte) (checksum : U16) (s : State) :
    Host.Outcome State Fault Refusal :=
  receiveFrame (wireBytes 0x40#8 sequence timestamp payload checksum) s

/-- UNSUPPORTED_ID (R120). -/
def execUnsupportedId (messageId : Byte) (sequence : U16) (timestamp : U32) (payload : List Byte) (checksum : U16)
    (s : State) : Host.Outcome State Fault Refusal :=
  receiveFrame (wireBytes messageId sequence timestamp payload checksum) s

end Sys2Proof.Machine
end

