-- ==== Sys2Proof/Machine/System.lean ====
section
/-! DEFINITION. The system operations (spec/43_system_ops.md): STATS_READ, STATS_CLEAR, RESET. -/

namespace Sys2Proof.Machine

/-- STATS_READ (R170). -/
def execStatsRead (idx : Counter) (s : State) : Host.Outcome State Fault Refusal :=
  .next (s.handBack (.count (s.counter idx)))

/-- STATS_CLEAR (R171). -/
def execStatsClear (s : State) : Host.Outcome State Fault Refusal := .next (s.clearCounters.handBack .nothing)

/-- RESET (R172): every element of R20 to its value of R32; the parameters stay (R201), and so do the operations
already issued, which are not state of the block. -/
def execReset (s : State) : Host.Outcome State Fault Refusal :=
  .next ({ State.construct s.cfg with requests := s.requests }.handBack .nothing)

end Sys2Proof.Machine
end

