-- ==== Sys2Proof/Machine/Dispatch.lean ====
section
/-! DEFINITION. One arm per constructor of Instr, each a direct call of its meaning. -/

namespace Sys2Proof.Machine

def exec (i : Instr) (s : State) : Host.Outcome State Fault Refusal :=
  match i with
  -- frame types (R117 to R120)
  | .command q t p c => Sys2Proof.Machine.execCommand q t p c s
  | .heartbeat q t p c => Sys2Proof.Machine.execHeartbeat q t p c s
  | .heartbeatAck q t p c => Sys2Proof.Machine.execHeartbeatAck q t p c s
  | .reserved20 q t p c => Sys2Proof.Machine.execReserved20 q t p c s
  | .reserved40 q t p c => Sys2Proof.Machine.execReserved40 q t p c s
  | .unsupportedId m q t p c => Sys2Proof.Machine.execUnsupportedId m q t p c s
  -- system operations (R170 to R172)
  | .reset => Sys2Proof.Machine.execReset s
  | .statsRead k => Sys2Proof.Machine.execStatsRead k s
  | .statsClear => Sys2Proof.Machine.execStatsClear s
  -- the CRC unit (R93 to R96)
  | .crcInit => Sys2Proof.Machine.execCrcInit s
  | .crcByte b => Sys2Proof.Machine.execCrcByte b s
  | .crcRead => Sys2Proof.Machine.execCrcRead s
  | .crcBlock bytes => Sys2Proof.Machine.execCrcBlock bytes s
  -- the frame codec (R110 to R115)
  | .encodeFrame m q t p => Sys2Proof.Machine.execEncodeFrame m q t p s
  | .decodeFrame bytes => Sys2Proof.Machine.execDecodeFrame bytes s
  | .packCmd v => Sys2Proof.Machine.execPackCmd v s
  | .unpackCmd p => Sys2Proof.Machine.execUnpackCmd p s
  -- the stream reassembler (R141 to R146)
  | .ingest chunk => Sys2Proof.Machine.execIngest chunk s
  | .scanStep => Sys2Proof.Machine.execScanStep s
  | .drainNext => Sys2Proof.Machine.execDrainNext s
  | .drain => Sys2Proof.Machine.execDrain s
  | .readyClear => Sys2Proof.Machine.execReadyClear s

end Sys2Proof.Machine
end

