-- ==== Sys2Proof/Machine/Step.lean ====
section
/-! DEFINITION. One step of the model: the next operation that an agent has issued is performed. The block itself
takes no step of its own (spec/00_scope.md R10) and fetches no instructions (spec/20_memory.md R53); the request port
stands for the agents, its byte order for the interleaving of their operations (R47, R50). -/

namespace Sys2Proof.Machine

/-- With nothing issued nothing changes; otherwise the first instruction leaves the port and is performed whole
(R47); bytes that are no instruction are refused (DESIGN CHOICE, log entry 12; safe). -/
def step (s : State) : Host.Outcome State Fault Refusal :=
  if s.requests = [] then .next s
  else
    match decode s.requests with
    | .ok (i, rest) => exec i { s with requests := rest }
    | .error why => .refused (.notAnOperation why)

/-- `s` with the instruction of one opcode-table word, operands zero, at the request port. -/
def State.withFetchWord (s : State) (nbits w : Nat) : State := { s with requests := tableBytes nbits w }

end Sys2Proof.Machine
end

