-- ==== Sys2Proof/Machine/Handshake.lean ====
section
/-! DEFINITION. The consumer's duties in the handshake of `data_ready` (spec/70_reset_and_hazards.md R204), over a history of
what the consumer does and of the operations performed. The block enforces neither duty and holds nothing of this (R30):
it is what claims may take as a premise about the environment. -/

namespace Sys2Proof.Machine

/-- What happens in a history: the consumer looks at `data_ready` (R26, R185: it polls), hands on the frames that it has been
given so far (dispatch, outside the block, R5), or an agent's operation is performed. -/
inductive Event where
  | look
  | handOn
  | perform (i : Instr)
deriving DecidableEq, Repr

/-- Where the consumer stands in its current round, which begins after a READY_CLEAR (or at the start) and ends with the
next one: the model's reading of R204's "this round" (DEDUCED, log entry 13; unsafe for a claim that takes the duties as a
premise under another reading). -/
structure Handshake where
  /-- It has seen `data_ready = 1` in this round. -/
  seen : Bool
  /-- It has issued a drain operation in this round. -/
  drained : Bool
  /-- How many frames it has been given and has not yet handed on. -/
  pending : Nat
deriving DecidableEq, Repr

/-- The start of a round. -/
def newRound : Handshake where
  seen := false
  drained := false
  pending := 0

/-- How many frames a result hands to the caller. -/
def Returned.frameCount : Returned → Nat
  | .frames fs => fs.length
  | .next (some _) => 1
  | .next none => 0
  | .scanned (.frame _) => 1
  | .scanned (.discard _ _) => 0
  | .scanned .wait => 0
  | .nothing => 0
  | .count _ => 0
  | .crc _ => 0
  | .encoded _ => 0
  | .decoded _ => 0
  | .packed _ => 0
  | .unpacked _ => 0

/-- "start draining only after seeing `data_ready = 1`" (R204), read as: seen in this round. R205 lets a consumer drain once
more after READY_CLEAR, or every period whatever the flag says; R204 is followed to the letter and both count as a breach
(DESIGN CHOICE, log entry 13; unsafe for a claim that takes the duties as a premise about such a consumer). -/
def mayDrain (h : Handshake) : Bool := h.seen

/-- "issue READY_CLEAR only after dispatch finishes, that is after its last drain operation of this round and after the frames
have been handed on" (R204): the round has its drain operations behind it, at least one, and no frame waits to be handed
on (DEDUCED, log entry 13; unsafe for a claim that takes the duties as a premise about a consumer that clears without one).
Whether bytes have come in since, and whether the buffer is empty, makes no difference (R146, R205). -/
def mayClear (h : Handshake) : Bool := h.drained && h.pending == 0

/-- After a drain operation: its frames are to be handed on. -/
def afterDrain (h : Handshake) (r : Returned) : Handshake :=
  { h with drained := true, pending := h.pending + r.frameCount }

/-- The consumer keeps to R204 in issuing this operation. A frame row is not issued by the consumer alone: its DRAIN follows
the INGEST that raises the flag (log entry 5). Every operation of another agent, and every one that is no part of the
handshake, is free of these duties. -/
def Handshake.allows (h : Handshake) : Instr → Bool
  | .scanStep => mayDrain h
  | .drainNext => mayDrain h
  | .drain => mayDrain h
  | .readyClear => mayClear h
  | .command _ _ _ _ => true
  | .heartbeat _ _ _ _ => true
  | .heartbeatAck _ _ _ _ => true
  | .reserved20 _ _ _ _ => true
  | .reserved40 _ _ _ _ => true
  | .unsupportedId _ _ _ _ _ => true
  | .reset => true
  | .statsRead _ => true
  | .statsClear => true
  | .crcInit => true
  | .crcByte _ => true
  | .crcRead => true
  | .crcBlock _ => true
  | .encodeFrame _ _ _ _ => true
  | .decodeFrame _ => true
  | .packCmd _ => true
  | .unpackCmd _ => true
  | .ingest _ => true

/-- Where the consumer stands after an operation with this result. RESET leaves it where it stands (DESIGN CHOICE, log entry 13;
unsafe for a claim that takes the duties as a premise across a RESET). -/
def Handshake.after (h : Handshake) (r : Returned) : Instr → Handshake
  | .scanStep => afterDrain h r
  | .drainNext => afterDrain h r
  | .drain => afterDrain h r
  | .readyClear => newRound
  | .command _ _ _ _ => afterDrain { h with seen := true } r
  | .heartbeat _ _ _ _ => afterDrain { h with seen := true } r
  | .heartbeatAck _ _ _ _ => afterDrain { h with seen := true } r
  | .reserved20 _ _ _ _ => afterDrain { h with seen := true } r
  | .reserved40 _ _ _ _ => afterDrain { h with seen := true } r
  | .unsupportedId _ _ _ _ _ => afterDrain { h with seen := true } r
  | .reset => h
  | .statsRead _ => h
  | .statsClear => h
  | .crcInit => h
  | .crcByte _ => h
  | .crcRead => h
  | .crcBlock _ => h
  | .encodeFrame _ _ _ _ => h
  | .decodeFrame _ => h
  | .packCmd _ => h
  | .unpackCmd _ => h
  | .ingest _ => h

/-- The consumer keeps to both duties of R204 all through a history that begins in this state, at this point of a round. -/
def keepsHandshake (h : Handshake) : List Event → State → Bool
  | [], _ => true
  | .look :: es, s => keepsHandshake { h with seen := h.seen || s.dataReady } es s
  | .handOn :: es, s => keepsHandshake { h with pending := 0 } es s
  | .perform i :: es, s =>
    h.allows i &&
      match exec i s with
      | .next t => keepsHandshake (h.after t.returned i) es t
      | .fault _ => false
      | .refused _ => false

end Sys2Proof.Machine
end

