-- ==== Sys2Proof/Safety.lean ====
section
/-! DEFINITION. What claims are stated in terms of: the state invariant, sequences of operations, the agents and
their rights (spec/60_exceptions.md R190), and the hazards that a state can show (spec/70_reset_and_hazards.md R205
and R206); the consumer's duties (R204) are in Machine/Handshake.lean. The block enforces none of the rights and duties. -/

namespace Sys2Proof.Machine

/-! ### The invariant -/

/-- The parameters are allowed (R7, R201), the occupied length is within the capacity (R24), and every counter fits
its `CNT_W` bits (R27, R28). -/
structure State.Inv (s : State) : Prop where
  cfg_ok : s.cfg.ok = true
  rx_wf : s.rx.wf s.cfg.bufCap = true
  ok_le : s.statOk ≤ counterMax s.cfg
  crcErr_le : s.statCrcErr ≤ counterMax s.cfg
  lenErr_le : s.statLenErr ≤ counterMax s.cfg
  unsupported_le : s.statUnsupported ≤ counterMax s.cfg

/-! ### Sequences of operations -/

/-- The operations performed one after another, each whole (R47, R50); none if one gives no next state. -/
def performAll : List Instr → State → Option State
  | [], s => some s
  | i :: is, s =>
    match exec i s with
    | .next t => performAll is t
    | .fault _ => none
    | .refused _ => none

/-- `n` steps of the machine; none if one gives no next state. -/
def runSteps : Nat → State → Option State
  | 0, s => some s
  | n + 1, s =>
    match step s with
    | .next t => runSteps n t
    | .fault _ => none
    | .refused _ => none

/-- The results of at most `n` SCAN_STEPs, ending at a WAIT, and the state after them: the "trace" of
spec/95_test_vectors.md section 2.3. -/
def scanRun : Nat → State → List ScanResult × State
  | 0, s => ([], s)
  | n + 1, s =>
    match scanStep s with
    | (.wait, s') => ([.wait], s')
    | (.discard r k, s') => (.discard r k :: (scanRun n s').1, (scanRun n s').2)
    | (.frame f, s') => (.frame f :: (scanRun n s').1, (scanRun n s').2)

/-- The frames among the results of a trace, in order. -/
def framesOf (trace : List ScanResult) : List Frame :=
  trace.filterMap fun r => match r with
    | .frame f => some f
    | .discard _ _ => none
    | .wait => none

/-- A SCAN_STEP would return WAIT: nothing more can be drained (R145). -/
def State.waits (s : State) : Bool := decide ((scanStep s).1 = .wait)

/-! ### Agents and rights -/

/-- The four outside agents (R10). -/
inductive Agent where
  | producer
  | consumer
  | sender
  | operator
deriving DecidableEq, Repr

/-- The pure operations, which touch no state element of R20 (R49, R201). -/
def pureOp : Instr → Bool
  | .crcBlock _ => true
  | .encodeFrame _ _ _ _ => true
  | .decodeFrame _ => true
  | .packCmd _ => true
  | .unpackCmd _ => true
  | .command _ _ _ _ => false
  | .heartbeat _ _ _ _ => false
  | .heartbeatAck _ _ _ _ => false
  | .reserved20 _ _ _ _ => false
  | .reserved40 _ _ _ _ => false
  | .unsupportedId _ _ _ _ _ => false
  | .reset => false
  | .statsRead _ => false
  | .statsClear => false
  | .crcInit => false
  | .crcByte _ => false
  | .crcRead => false
  | .ingest _ => false
  | .scanStep => false
  | .drainNext => false
  | .drain => false
  | .readyClear => false

/-- The rights table of R190. A frame row is no operation of one agent (the producer ingests it, the consumer drains
it), so no single agent issues it. -/
def Agent.mayIssue (a : Agent) : Instr → Bool
  | .command _ _ _ _ => false
  | .heartbeat _ _ _ _ => false
  | .heartbeatAck _ _ _ _ => false
  | .reserved20 _ _ _ _ => false
  | .reserved40 _ _ _ _ => false
  | .unsupportedId _ _ _ _ _ => false
  | .reset => a == .operator
  | .statsRead _ => true
  | .statsClear => a == .operator
  | .crcInit => a == .sender
  | .crcByte _ => a == .sender
  | .crcRead => a == .sender
  | .crcBlock _ => true
  | .encodeFrame _ _ _ _ => a == .sender || a == .consumer
  | .decodeFrame _ => true
  | .packCmd _ => a == .sender || a == .consumer
  | .unpackCmd _ => true
  | .ingest _ => a == .producer
  | .scanStep => a == .consumer
  | .drainNext => a == .consumer
  | .drain => a == .consumer
  | .readyClear => a == .consumer

/-! ### Hazards -/

/-- The producer delivers no more than the buffer has room for (R206): no byte is dropped. -/
def State.hasRoomFor (s : State) (chunk : List Byte) : Bool := decide (s.rx.length + chunk.length ≤ s.cfg.bufCap)

/-- The lost wake-up of R205 as one state can show it: the flag is 0 while the buffer holds bytes on which a SCAN_STEP would not
WAIT. R205 gives it by its history alone; the model reads "undrained bytes" as bytes that a drain would act on, so a partial
frame ingested in the window does not count, and a frame that DRAIN_NEXT left behind does, with no INGEST in the window
(DESIGN CHOICE, log entry 14; unsafe for a claim that takes the predicate for R205's history). -/
def State.lostWakeUp (s : State) : Bool := !s.dataReady && !s.waits

end Sys2Proof.Machine
end

