-- ==== Sys2Proof/Certificates/Slice0/Obligations.lean ====
section
/-! DEFINITION. The statements for the provers. Each docstring names the rule or section of spec/ that it formalises. -/

open Sys2Proof Sys2Proof.Machine

/-! ### Reset, construction, the system operations -/

/-- R32 and R172: after power-on, after construction with any parameters, and after the RESET operation from any state,
every element of R20 has its reset value; the parameters stay. That the operations already issued stay too is no rule of the
spec but the model's choice (log entry 3), so the basis is derived. -/
def Obligations.ResetValuesOfEveryElement : Prop :=
  (State.reset.rx = [] ∧ State.reset.dataReady = false ∧ State.reset.statOk = 0 ∧ State.reset.statCrcErr = 0 ∧
    State.reset.statLenErr = 0 ∧ State.reset.statUnsupported = 0 ∧ State.reset.crcAcc = 0xFFFF#16) ∧
  (∀ c : Config, (State.construct c).rx = [] ∧ (State.construct c).dataReady = false ∧ (State.construct c).statOk = 0 ∧
    (State.construct c).statCrcErr = 0 ∧ (State.construct c).statLenErr = 0 ∧ (State.construct c).statUnsupported = 0 ∧
    (State.construct c).crcAcc = 0xFFFF#16) ∧
  ∀ s : State, exec .reset s = .next
    { cfg := s.cfg, rx := [], dataReady := false, statOk := 0, statCrcErr := 0, statLenErr := 0, statUnsupported := 0,
      crcAcc := 0xFFFF#16, requests := s.requests, returned := .nothing }

/-- R170: STATS_READ returns one counter, in the order ok, crc-error, length-error, unsupported, and changes nothing; no
index above 3 names a counter; any agent may read. -/
def Obligations.StatsReadReturnsTheIndexedCounter : Prop :=
  (∀ s : State,
    exec (.statsRead .ok) s = .next { s with returned := .count s.statOk } ∧
    exec (.statsRead .crcErr) s = .next { s with returned := .count s.statCrcErr } ∧
    exec (.statsRead .lenErr) s = .next { s with returned := .count s.statLenErr } ∧
    exec (.statsRead .unsupported) s = .next { s with returned := .count s.statUnsupported }) ∧
  Counter.ofByte 0#8 = some .ok ∧ Counter.ofByte 1#8 = some .crcErr ∧ Counter.ofByte 2#8 = some .lenErr ∧
  Counter.ofByte 3#8 = some .unsupported ∧ (∀ b : Byte, 3 < b.toNat → Counter.ofByte b = none) ∧
  ∀ (a : Agent) (k : Counter), a.mayIssue (.statsRead k) = true

/-- R171 and R28: STATS_CLEAR zeroes the four counters together and touches nothing else; an increment is `c + 1` below
`2^CNT_W - 1` and nothing at it; and no operation but STATS_CLEAR and RESET makes a counter smaller. -/
def Obligations.CountersSaturateAndAreClearedTogether : Prop :=
  (∀ s : State, exec .statsClear s = .next
    { s with statOk := 0, statCrcErr := 0, statLenErr := 0, statUnsupported := 0, returned := .nothing }) ∧
  (∀ c : Config, satInc c (2 ^ c.cntW - 1) = 2 ^ c.cntW - 1 ∧ ∀ n : Nat, n < 2 ^ c.cntW - 1 → satInc c n = n + 1) ∧
  ∀ (i : Instr) (s t : State), i ≠ .statsClear → i ≠ .reset → exec i s = .next t →
    s.statOk ≤ t.statOk ∧ s.statCrcErr ≤ t.statCrcErr ∧ s.statLenErr ≤ t.statLenErr ∧
    s.statUnsupported ≤ t.statUnsupported

/-! ### The CRC unit -/

/-- R93, R94, R95: CRC_INIT loads `0xFFFF` (twice is the same as once), CRC_BYTE takes one CrcStep (a zero byte changes the
initial remainder), CRC_READ returns the register as it stands (`0xFFFF` straight after CRC_INIT); each touches nothing
else. -/
def Obligations.ByteSerialCrcOperations : Prop :=
  (∀ s : State, exec .crcInit s = .next { s with crcAcc := 0xFFFF#16, returned := .nothing }) ∧
  (∀ s t : State, exec .crcInit s = .next t → exec .crcInit t = .next t) ∧
  (∀ (b : Byte) (s : State),
    exec (.crcByte b) s = .next { s with crcAcc := crcStep s.crcAcc b, returned := .nothing }) ∧
  crcStep 0xFFFF#16 0x00#8 = 0xE1F0#16 ∧ crcStep 0xFFFF#16 0x31#8 = 0xC782#16 ∧
  (∀ s : State, exec .crcRead s = .next { s with returned := .crc s.crcAcc }) ∧
  ∀ s t : State, exec .crcInit s = .next t → exec .crcRead t = .next { t with returned := .crc 0xFFFF#16 }

/-- R96: CRC_BLOCK returns the fold of CrcStep from `0xFFFF`, leaves `crc_acc` alone, and agrees with the serial
operations. -/
def Obligations.CrcBlockAgreesWithTheSerialOperations : Prop :=
  (∀ (bytes : List Byte) (s : State),
    exec (.crcBlock bytes) s = .next { s with returned := .crc (bytes.foldl crcStep 0xFFFF#16) }) ∧
  ∀ (bytes : List Byte) (s : State), ∃ t,
    performAll ([.crcInit] ++ bytes.map Instr.crcByte ++ [.crcRead]) s = some t ∧
    exec (.crcBlock bytes) s = .next { s with returned := t.returned }

/-- R92: CrcStep is the form that consumes one message bit at a time, from bit 7 down to bit 0, with feedback
`c[15] XOR m`. -/
def Obligations.CrcStepEqualsTheBitSerialForm : Prop :=
  ∀ (c : U16) (b : Byte),
    crcStep c b = [7, 6, 5, 4, 3, 2, 1, 0].foldl
      (fun (c : U16) (i : Nat) => if (c.getLsbD 15 ^^ b.getLsbD i) = true then (c <<< 1) ^^^ 0x1021#16 else c <<< 1) c

/-- R97 items 1 and 2, and R91: the empty message, and running over a concatenation. -/
def Obligations.CrcIsIncremental : Prop :=
  crc16 [] = 0xFFFF#16 ∧ ∀ a b : List Byte, crc16 (a ++ b) = b.foldl crcStep (crc16 a)

/-- R97 item 3: a message followed by its own CRC, high byte first, has CRC zero. -/
def Obligations.CrcZeroResidue : Prop :=
  ∀ s : List Byte, crc16 (s ++ bytesBe16 (crc16 s)) = 0x0000#16

/-- R97 item 4: CrcStep is a bijection of the remainder for each byte, and injective in the byte. -/
def Obligations.CrcStepLosesNothing : Prop :=
  (∀ b : Byte, Function.Bijective fun c : U16 => crcStep c b) ∧ ∀ c : U16, Function.Injective fun b : Byte => crcStep c b

/-- R97 items 4 and 5: two messages of equal length that differ in exactly one byte have different CRCs. -/
def Obligations.CrcDetectsOneChangedByte : Prop :=
  ∀ (a d : List Byte) (x y : Byte), x ≠ y → crc16 (a ++ x :: d) ≠ crc16 (a ++ y :: d)

/-! ### The frame codec -/

/-- R110: ENCODE's bytes, or ENC_LEN for more than 16 payload bytes; no state is written. -/
def Obligations.EncodeBuildsTheFrame : Prop :=
  ∀ (id : Byte) (q : U16) (t : U32) (p : List Byte) (s : State),
    (16 < p.length → exec (.encodeFrame id q t p) s = .next { s with returned := .encoded .encLen }) ∧
    (p.length ≤ 16 → exec (.encodeFrame id q t p) s = .next { s with
      returned := .encoded (.ok
       ([0xAA#8, 0x55#8, 0x01#8, id] ++ bytesBe16 q ++ bytesBe32 t ++ bytesBe16 (BitVec.ofNat 16 p.length) ++ p ++
        bytesBe16 (crc16 ([0x01#8, id] ++ bytesBe16 q ++ bytesBe32 t ++ bytesBe16 (BitVec.ofNat 16 p.length) ++ p)))) })

/-- R111: the properties of ENCODE's result, and that ENCODE is injective. -/
def Obligations.EncodedFrameProperties : Prop :=
  (∀ (id : Byte) (q : U16) (t : U32) (p f : List Byte), codecEncode id q t p = .ok f →
    f.length = 14 + p.length ∧ f.length ≤ 30 ∧ f.take 2 = [0xAA#8, 0x55#8] ∧ byteAt f 2 = 0x01#8 ∧
    (be16 f 10).toNat = p.length ∧ be16 f (12 + p.length) = crc16 (slice f 2 (12 + p.length)) ∧
    crc16 (slice f 2 (14 + p.length)) = 0x0000#16) ∧
  ∀ (id id' : Byte) (q q' : U16) (t t' : U32) (p p' f : List Byte),
    codecEncode id q t p = .ok f → codecEncode id' q' t' p' = .ok f → id = id' ∧ q = q' ∧ t = t' ∧ p = p'

/-- R112 and R184: DECODE answers the first failing test in the order of the listing, else the frame and its total
length; no state is written. -/
def Obligations.DecodeTakesTheFirstFailingTest : Prop :=
  ∀ (b : List Byte) (s : State),
    let cap := s.cfg.bufCap
    let len := (be16 b 10).toNat
    let goodMarker := byteAt b 0 = 0xAA#8 ∧ byteAt b 1 = 0x55#8
    (b.length < 14 → exec (.decodeFrame b) s = .next { s with returned := .decoded (.error .tooShort) }) ∧
    (14 ≤ b.length → ¬goodMarker → exec (.decodeFrame b) s = .next { s with returned := .decoded (.error .badMarker) }) ∧
    (14 ≤ b.length → goodMarker → byteAt b 2 ≠ 0x01#8 →
      exec (.decodeFrame b) s = .next { s with returned := .decoded (.error .badVersion) }) ∧
    (14 ≤ b.length → goodMarker → byteAt b 2 = 0x01#8 → cap < 14 + len →
      exec (.decodeFrame b) s = .next { s with returned := .decoded (.error .badLength) }) ∧
    (14 ≤ b.length → goodMarker → byteAt b 2 = 0x01#8 → 14 + len ≤ cap → b.length < 14 + len →
      exec (.decodeFrame b) s = .next { s with returned := .decoded (.error .incomplete) }) ∧
    (14 ≤ b.length → goodMarker → byteAt b 2 = 0x01#8 → 14 + len ≤ cap → 14 + len ≤ b.length →
      crc16 (slice b 2 (12 + len)) ≠ be16 b (12 + len) →
      exec (.decodeFrame b) s = .next { s with returned := .decoded (.error .badCrc) }) ∧
    (14 ≤ b.length → goodMarker → byteAt b 2 = 0x01#8 → 14 + len ≤ cap → 14 + len ≤ b.length →
      crc16 (slice b 2 (12 + len)) = be16 b (12 + len) →
      exec (.decodeFrame b) s = .next { s with
        returned := .decoded (.ok
          ⟨0x01#8, byteAt b 3, kindOf (byteAt b 3), be16 b 4, be32 b 6, be16 b 10, slice b 12 (12 + len), be16 b (12 + len)⟩
          (14 + len)) })

/-- R112 and R44: DECODE never looks past the bytes that the declared length implies; surplus bytes are ignored. -/
def Obligations.DecodeIgnoresSurplusBytes : Prop :=
  ∀ (cap : Nat) (b surplus : List Byte) (f : Frame) (total : Nat), codecDecode cap b = .ok f total →
    total ≤ b.length ∧ total = 14 + f.length.toNat ∧ f.payload.length = f.length.toNat ∧
    codecDecode cap (b ++ surplus) = .ok f total ∧ codecDecode cap (b.take total) = .ok f total

/-- R122: DECODE of ENCODE gives back every operand, at every capacity of at least 30. -/
def Obligations.DecodeOfEncodeRoundTrip : Prop :=
  ∀ (id : Byte) (q : U16) (t : U32) (p : List Byte) (s : State), p.length ≤ 16 → 30 ≤ s.cfg.bufCap →
    ∃ f, exec (.encodeFrame id q t p) s = .next { s with returned := .encoded (.ok f) } ∧
      exec (.decodeFrame f) s = .next { s with
        returned := .decoded (.ok
          ⟨0x01#8, id, kindOf id, q, t, BitVec.ofNat 16 p.length, p, crc16 (slice f 2 (12 + p.length))⟩
          (14 + p.length)) }

/-- R67: the kind is computed from the identifier and from nothing else. -/
def Obligations.KindOfEveryIdentifier : Prop :=
  kindOf 0x01#8 = .command ∧ kindOf 0x10#8 = .heartbeat ∧ kindOf 0x11#8 = .heartbeatAck ∧
  ∀ id : Byte, id ≠ 0x01#8 → id ≠ 0x10#8 → id ≠ 0x11#8 → kindOf id = .unsupported id

/-- R114: PACK_CMD stores each value clamped to 0..10000, channel 0 first, big-endian. -/
def Obligations.PackCmdClampsAndStores : Prop :=
  ∀ (v : Channels Int) (s : State),
    let w : Int → List Byte := fun x => bytesBe16 (BitVec.ofInt 16 (if x < 0 then 0 else if 10000 < x then 10000 else x))
    exec (.packCmd v) s = .next { s with
      returned := .packed
        (w v.c0 ++ w v.c1 ++ w v.c2 ++ w v.c3 ++ w v.c4 ++ w v.c5 ++ w v.c6 ++ w v.c7) }

/-- R115: UNPACK_CMD returns the eight raw values of a 16-byte payload, BAD_PAYLOAD_LEN for any other length; of a packed
vector it returns the clamped values, which are the values themselves when all lie in 0..10000. -/
def Obligations.UnpackCmdReturnsTheRawValues : Prop :=
  (∀ (p : List Byte) (s : State),
    (p.length ≠ 16 → exec (.unpackCmd p) s = .next { s with returned := .unpacked .badPayloadLen }) ∧
    (p.length = 16 → exec (.unpackCmd p) s = .next { s with
      returned := .unpacked (.ok
        ⟨be16 p 0, be16 p 2, be16 p 4, be16 p 6, be16 p 8, be16 p 10, be16 p 12, be16 p 14⟩) })) ∧
  ∀ v : Channels Int, ∃ w : Channels U16, unpackCmd (packCmd v) = .ok w ∧
    w.map (fun x => Int.ofNat x.toNat) = v.map (fun x => if x < 0 then 0 else if 10000 < x then 10000 else x) ∧
    ((∀ x ∈ v.toList, 0 ≤ x ∧ x ≤ 10000) → w.map (fun x => Int.ofNat x.toNat) = v)

/-- R122's last sentence, the source's round-trip property: a command vector sent through PACK_CMD and ENCODE comes back
through DECODE and UNPACK_CMD exactly, after the clamp to 0..10000. -/
def Obligations.CommandVectorRoundTrip : Prop :=
  ∀ (q : U16) (t : U32) (v : Channels Int) (s : State), 30 ≤ s.cfg.bufCap →
    ∃ (f : List Byte) (fr : Frame) (w : Channels U16),
      exec (encodeCommand q t v) s = .next { s with returned := .encoded (.ok f) } ∧ f.length = 30 ∧
      exec (.decodeFrame f) s = .next { s with returned := .decoded (.ok fr 30) } ∧
      fr.kind = .command ∧ fr.sequence = q ∧ fr.timestamp = t ∧ fr.length = 0x0010#16 ∧
      exec (.unpackCmd fr.payload) s = .next { s with returned := .unpacked (.ok w) } ∧
      w.map (fun x => Int.ofNat x.toNat) = v.map (fun x => max 0 (min x 10000)) ∧
      ((∀ x ∈ v.toList, 0 ≤ x ∧ x ≤ 10000) → w.map (fun x => Int.ofNat x.toNat) = v)

/-- R121: every single-bit corruption of an encoded frame, row by row, the exception of row 5 included; and the property
without exception for a caller that requires the total to equal the slice length. -/
def Obligations.SingleBitCorruptionTable : Prop :=
  ∀ (cap : Nat) (id : Byte) (q : U16) (t : U32) (p f : List Byte) (k j : Nat),
    30 ≤ cap → codecEncode id q t p = .ok f → k < f.length → j < 8 →
    let f' := f.set k (byteAt f k ^^^ (1#8 <<< j))
    let len := (be16 f' 10).toNat
    (k < 2 → codecDecode cap f' = .error .badMarker) ∧
    (k = 2 → codecDecode cap f' = .error .badVersion) ∧
    (3 ≤ k → k ≤ 9 → codecDecode cap f' = .error .badCrc) ∧
    (k = 10 ∨ k = 11 → p.length < len → cap < 14 + len → codecDecode cap f' = .error .badLength) ∧
    (k = 10 ∨ k = 11 → p.length < len → 14 + len ≤ cap → codecDecode cap f' = .error .incomplete) ∧
    (k = 10 ∨ k = 11 → len < p.length → crc16 (slice f' 2 (12 + len)) ≠ be16 f' (12 + len) →
      codecDecode cap f' = .error .badCrc) ∧
    (k = 10 ∨ k = 11 → len < p.length → crc16 (slice f' 2 (12 + len)) = be16 f' (12 + len) →
      codecDecode cap f' = .ok (parseFrame f') (14 + len)) ∧
    (k = 10 ∨ k = 11 → len ≠ p.length) ∧
    (12 ≤ k → codecDecode cap f' = .error .badCrc) ∧
    (∀ fr total, codecDecode cap f' = .ok fr total → total ≠ f'.length)

/-! ### The receive buffer -/

/-- R42 and R43: BufPush appends one byte, dropping the oldest byte exactly when the buffer is full; BufAppend, its
repetition, keeps the last `BUF_CAP` bytes of the old content followed by the chunk, so that nothing is dropped when there
is room and a chunk of at least `BUF_CAP` bytes leaves its own last `BUF_CAP` bytes. -/
def Obligations.BufAppendKeepsTheMostRecentBytes : Prop :=
  ∀ (cap : Nat) (m : Memory) (b : Byte) (chunk : List Byte), 0 < cap → m.length ≤ cap →
    (m.length < cap → bufPush cap m b = m ++ [b]) ∧
    (∀ old rest, m = old :: rest → m.length = cap → bufPush cap m b = rest ++ [b]) ∧
    bufAppend cap m chunk = (m ++ chunk).drop ((m ++ chunk).length - cap) ∧
    (m.length + chunk.length ≤ cap → bufAppend cap m chunk = m ++ chunk) ∧
    (cap ≤ chunk.length → bufAppend cap m chunk = chunk.drop (chunk.length - cap))

/-- R41 and R12: every multi-byte field is big-endian wherever it stands: a field written at any offset reads back, and
MemRead gives the number its bytes spell. -/
def Obligations.FieldsAreBigEndian : Prop :=
  ∀ (a d : List Byte) (v : U16) (w : U32),
    be16 (a ++ bytesBe16 v ++ d) a.length = v ∧ be32 (a ++ bytesBe32 w ++ d) a.length = w ∧
    memRead (a ++ bytesBe16 v ++ d) a.length 2 = v.toNat ∧ memRead (a ++ bytesBe32 w ++ d) a.length 4 = w.toNat ∧
    ∀ b0 b1 : Byte, (be16 (a ++ [b0, b1] ++ d) a.length).toNat = b0.toNat * 256 + b1.toNat

/-! ### INGEST and the flag -/

/-- R141: INGEST keeps the last `BUF_CAP` bytes and sets the flag; an empty chunk changes nothing. -/
def Obligations.IngestAppendsAndSetsTheFlag : Prop :=
  ∀ (chunk : List Byte) (s : State), 0 < s.cfg.bufCap → s.rx.length ≤ s.cfg.bufCap →
    exec (.ingest []) s = .next { s with returned := .nothing } ∧
    (chunk ≠ [] → exec (.ingest chunk) s = .next
      { s with rx := (s.rx ++ chunk).drop (s.rx.length + chunk.length - s.cfg.bufCap), dataReady := true,
               returned := .nothing })

/-- R141: `INGEST(a); INGEST(b)` leaves the same buffer as `INGEST(a ++ b)`. -/
def Obligations.IngestChunkingDoesNotMatter : Prop :=
  ∀ (a b : List Byte) (s : State), performAll [.ingest a, .ingest b] s = performAll [.ingest (a ++ b)] s

/-- R146: READY_CLEAR clears the flag and touches nothing else. -/
def Obligations.ReadyClearClearsOnlyTheFlag : Prop :=
  ∀ s : State, exec .readyClear s = .next { s with dataReady := false, returned := .nothing }

/-- R26: the drain operations behave the same whether the flag is 0 or 1, and leave it as it is. -/
def Obligations.DrainsIgnoreTheFlag : Prop :=
  ∀ (i : Instr) (s t : State) (b : Bool), i = .scanStep ∨ i = .drainNext ∨ i = .drain → exec i s = .next t →
    t.dataReady = s.dataReady ∧ exec i { s with dataReady := b } = .next { t with dataReady := b }

/-- R205 and R204: the lost wake-up. An INGEST followed by READY_CLEAR leaves the flag 0 with the bytes still buffered, and a
DRAIN then yields what it would have yielded before the READY_CLEAR, leaves the same buffer and counts the same. That much
is R205. The clauses about `keepsHandshake` are the model's reading of R204 and no rule (log entry 13): its notion of a round,
its demand that a READY_CLEAR have a drain operation in the round (DEDUCED), and its counting a drain without a look in the
round as a breach, which R205 offers as a remedy (DESIGN CHOICE). Under that reading a consumer that keeps its duties meets
the window: it looked, drained, handed its frames on, and the INGEST came before its READY_CLEAR; and it keeps them not when
it drains without having seen the flag at 1, clears without a drain operation in the round, or clears while a frame waits to
be handed on. -/
def Obligations.LostWakeUpLosesNoBytes : Prop :=
  (∀ (chunk : List Byte) (s t u v : State), performAll [.ingest chunk] s = some t →
    performAll [.ingest chunk, .readyClear] s = some u → performAll [.ingest chunk, .drain] s = some v →
    u.dataReady = false ∧ u.rx = t.rx ∧
    ∃ w, exec .drain u = .next w ∧ w.returned = v.returned ∧ w.rx = v.rx ∧ w.statOk = v.statOk ∧
      w.statCrcErr = v.statCrcErr ∧ w.statLenErr = v.statLenErr ∧ w.statUnsupported = v.statUnsupported) ∧
  (∀ (chunk : List Byte) (s : State), s.dataReady = true →
    keepsHandshake newRound [.look, .perform .drain, .handOn, .perform (.ingest chunk), .perform .readyClear] s = true) ∧
  (∀ (i : Instr) (s : State), i = .scanStep ∨ i = .drainNext ∨ i = .drain → s.dataReady = false →
    keepsHandshake newRound [.look, .perform i] s = false) ∧
  (∀ s : State, keepsHandshake newRound [.look, .perform .readyClear] s = false) ∧
  ∀ s t : State, s.dataReady = true → exec .drain s = .next t →
    (keepsHandshake newRound [.look, .perform .drain, .perform .readyClear] s = true ↔ t.returned = .frames [])

/-! ### The scan -/

/-- R142: FindMarker returns the least offset at which `AA 55` stands, and NONE exactly when there is no such offset. -/
def Obligations.FindMarkerFindsTheFirst : Prop :=
  ∀ m : Memory,
    (∀ i, findMarker m = some i ↔
      (m[i]? = some 0xAA#8 ∧ m[i + 1]? = some 0x55#8 ∧ ∀ j < i, ¬(m[j]? = some 0xAA#8 ∧ m[j + 1]? = some 0x55#8))) ∧
    (findMarker m = none ↔ ∀ j, ¬(m[j]? = some 0xAA#8 ∧ m[j + 1]? = some 0x55#8))

/-- R143 step 1, marker absent: an empty buffer or a lone `AA` waits; else all bytes but one trailing `AA` go as NOISE, and
no counter counts them. -/
def Obligations.ScanWithoutMarkerKeepsATrailingAA : Prop :=
  ∀ s : State, (∀ j, ¬(s.rx[j]? = some 0xAA#8 ∧ s.rx[j + 1]? = some 0x55#8)) →
    ((s.rx = [] ∨ s.rx = [0xAA#8]) → exec .scanStep s = .next { s with returned := .scanned .wait }) ∧
    (∀ noise, noise ≠ [] → s.rx = noise ++ [0xAA#8] →
      exec .scanStep s = .next { s with rx := [0xAA#8], returned := .scanned (.discard .noise noise.length) }) ∧
    (∀ noise last, s.rx = noise ++ [last] → last ≠ 0xAA#8 →
      exec .scanStep s = .next { s with rx := [], returned := .scanned (.discard .noise (noise.length + 1)) })

/-- R143 step 1, marker at an offset above 0: the whole garbage goes at once, and no counter counts it. -/
def Obligations.ScanDiscardsGarbageBeforeTheMarker : Prop :=
  ∀ (s : State) (garbage rest : List Byte), garbage ≠ [] → s.rx = garbage ++ 0xAA#8 :: 0x55#8 :: rest →
    (∀ j < garbage.length, ¬(s.rx[j]? = some 0xAA#8 ∧ s.rx[j + 1]? = some 0x55#8)) →
    exec .scanStep s = .next
      { s with rx := 0xAA#8 :: 0x55#8 :: rest, returned := .scanned (.discard .noise garbage.length) }

/-- R143 steps 2 and 5: with the marker at offset 0, fewer than 14 bytes, or fewer than the declared total, wait and
change nothing. -/
def Obligations.ScanWaitsForAPartialFrame : Prop :=
  ∀ (s : State) (rest : List Byte), s.rx = 0xAA#8 :: 0x55#8 :: rest →
    (s.rx.length < 14 → exec .scanStep s = .next { s with returned := .scanned .wait }) ∧
    (14 ≤ s.rx.length → byteAt s.rx 2 = 0x01#8 → 14 + (be16 s.rx 10).toNat ≤ s.cfg.bufCap →
      s.rx.length < 14 + (be16 s.rx 10).toNat → exec .scanStep s = .next { s with returned := .scanned .wait })

/-- R143 steps 3, 4 and 6, and R183: a rejected candidate loses exactly its first byte and adds one, saturating, to
exactly one counter. -/
def Obligations.ScanRejectsOneByteAndCountsOnce : Prop :=
  ∀ (s : State) (rest : List Byte), s.rx = 0xAA#8 :: 0x55#8 :: rest → 14 ≤ s.rx.length →
    let len := (be16 s.rx 10).toNat
    let inc := fun c : Nat => if c < 2 ^ s.cfg.cntW - 1 then c + 1 else c
    (byteAt s.rx 2 ≠ 0x01#8 → exec .scanStep s = .next
      { s with rx := 0x55#8 :: rest, statUnsupported := inc s.statUnsupported,
               returned := .scanned (.discard .version 1) }) ∧
    (byteAt s.rx 2 = 0x01#8 → s.cfg.bufCap < 14 + len → exec .scanStep s = .next
      { s with rx := 0x55#8 :: rest, statLenErr := inc s.statLenErr, returned := .scanned (.discard .length 1) }) ∧
    (byteAt s.rx 2 = 0x01#8 → 14 + len ≤ s.cfg.bufCap → 14 + len ≤ s.rx.length →
      crc16 (slice s.rx 2 (12 + len)) ≠ be16 s.rx (12 + len) → exec .scanStep s = .next
      { s with rx := 0x55#8 :: rest, statCrcErr := inc s.statCrcErr, returned := .scanned (.discard .crc 1) })

/-- R143 step 7 and R72 rows 5 to 8: a frame at offset 0 with a right checksum and room within the capacity is yielded
whole, whatever its identifier, length or channel values; exactly its bytes leave the buffer and `stat_ok` counts it. -/
def Obligations.ScanYieldsAValidFrame : Prop :=
  ∀ (s : State) (id : Byte) (q : U16) (t : U32) (p rest : List Byte),
    let lenField : U16 := BitVec.ofNat 16 p.length
    let crc := crc16 ([0x01#8, id] ++ bytesBe16 q ++ bytesBe32 t ++ bytesBe16 lenField ++ p)
    p.length < 2 ^ 16 → 14 + p.length ≤ s.cfg.bufCap → s.rx = wireBytes id q t p crc ++ rest →
    exec .scanStep s = .next
      { s with rx := rest, statOk := (if s.statOk < 2 ^ s.cfg.cntW - 1 then s.statOk + 1 else s.statOk),
               returned := .scanned (.frame ⟨0x01#8, id, kindOf id, q, t, lenField, p, crc⟩) }

/-- R149: when the marker stands at offset 0, SCAN_STEP and DECODE of the buffer agree, outcome by outcome. -/
def Obligations.ScanAgreesWithDecode : Prop :=
  ∀ s : State, findMarker s.rx = some 0 →
    let d := codecDecode s.cfg.bufCap s.rx
    let r := (scanStep s).1
    (∀ f, r = .frame f ↔ ∃ total, d = .ok f total) ∧
    (r = .discard .version 1 ↔ d = .error .badVersion) ∧ (r = .discard .length 1 ↔ d = .error .badLength) ∧
    (r = .discard .crc 1 ↔ d = .error .badCrc) ∧
    (r = .wait ↔ (d = .error .tooShort ∨ d = .error .incomplete)) ∧
    (14 ≤ s.rx.length → d ≠ .error .badMarker)

/-- R147: a SCAN_STEP that does not WAIT removes at least one byte, from the front only; one that WAITs changes nothing. -/
def Obligations.ScanMakesProgress : Prop :=
  ∀ s t : State, exec .scanStep s = .next t →
    (t.returned = .scanned .wait ∧ t = { s with returned := .scanned .wait }) ∨
    (t.returned ≠ .scanned .wait ∧ ∃ k, 1 ≤ k ∧ k ≤ s.rx.length ∧ t.rx = s.rx.drop k ∧
      (∀ r n, t.returned = .scanned (.discard r n) → n = k))

/-! ### The drains -/

/-- R144: DRAIN_NEXT is its loop: IDLE at a WAIT, the frame at a FRAME, and after a DISCARD whatever DRAIN_NEXT does from
the state that the SCAN_STEP left. -/
def Obligations.DrainNextIsTheScanLoop : Prop :=
  ∀ s : State,
    ((scanStep s).1 = .wait → exec .drainNext s = .next { s with returned := .next none }) ∧
    (∀ f, (scanStep s).1 = .frame f → exec .drainNext s = .next { (scanStep s).2 with returned := .next (some f) }) ∧
    (∀ r k, (scanStep s).1 = .discard r k → exec .drainNext s = exec .drainNext (scanStep s).2)

/-- R145: DRAIN is its loop, the empty list at IDLE, else the frame of DRAIN_NEXT before what DRAIN yields after it; and
after DRAIN a SCAN_STEP would WAIT, the buffer being empty, a single `AA`, or beginning with `AA 55`. -/
def Obligations.DrainIsTheDrainNextLoop : Prop :=
  (∀ s u : State, exec .drainNext s = .next u →
    (u.returned = .next none → exec .drain s = .next { u with returned := .frames [] }) ∧
    (∀ f, u.returned = .next (some f) → ∃ v fs, exec .drain u = .next v ∧ v.returned = .frames fs ∧
      exec .drain s = .next { v with returned := .frames (f :: fs) })) ∧
  ∀ s t : State, exec .drain s = .next t →
    t.waits = true ∧ (t.rx = [] ∨ t.rx = [0xAA#8] ∨ ∃ rest, t.rx = 0xAA#8 :: 0x55#8 :: rest)

/-- R144: after IDLE a SCAN_STEP would WAIT, and a further DRAIN_NEXT with no INGEST in between is IDLE again and changes
nothing. -/
def Obligations.IdleIsStable : Prop :=
  ∀ s t : State, exec .drainNext s = .next t → t.returned = .next none → t.waits = true ∧ exec .drainNext t = .next t

/-- R147, R145 and decision D27: at most `rx_len + 1` SCAN_STEPs reach a WAIT, and those SCAN_STEPs are the DRAIN: the same
state, and the frames among their results, in order. -/
def Obligations.DrainIsABoundedRunOfScanSteps : Prop :=
  ∀ s : State,
    let run := scanRun (s.rx.length + 1) s
    run.1.length ≤ s.rx.length + 1 ∧ run.1.getLast? = some .wait ∧
    exec .drain s = .next { run.2 with returned := .frames (framesOf run.1) }

/-- R148 item 2, for every valid frame that fits the buffer, one that ENCODE builds or one with a longer payload: split into
two INGESTs at any boundary it yields nothing after the first DRAIN, the buffer keeping every byte, and exactly that frame
after the second. -/
def Obligations.PartialFrameStability : Prop :=
  ∀ (s : State) (id : Byte) (q : U16) (t : U32) (p : List Byte) (k : Nat),
    let crc := crc16 ([0x01#8, id] ++ bytesBe16 q ++ bytesBe32 t ++ bytesBe16 (BitVec.ofNat 16 p.length) ++ p)
    let f := wireBytes id q t p crc
    s.rx = [] → p.length < 2 ^ 16 → f.length ≤ s.cfg.bufCap → 1 ≤ k → k < f.length →
    ∃ t1 t2, performAll [.ingest (f.take k), .drain] s = some t1 ∧
      t1 = { s with rx := f.take k, dataReady := true, returned := .frames [] } ∧
      performAll [.ingest (f.drop k), .drain] t1 = some t2 ∧
      t2 = { s with
        dataReady := true
        statOk := satInc s.cfg s.statOk
        returned := .frames [⟨0x01#8, id, kindOf id, q, t, BitVec.ofNat 16 p.length, p, crc⟩] }

/-- R148 item 3, for any number of frames: valid frames concatenated in one INGEST that fits the buffer are all yielded by
one DRAIN, in order. (The premise that they fit is the model's: R148 does not state it, R43 needs it.) -/
def Obligations.MultiFrameDrain : Prop :=
  ∀ (s : State) (ws : List (Byte × U16 × U32 × List Byte)),
    let crcOf : Byte × U16 × U32 × List Byte → U16 := fun w => crc16
      ([0x01#8, w.1] ++ bytesBe16 w.2.1 ++ bytesBe32 w.2.2.1 ++ bytesBe16 (BitVec.ofNat 16 w.2.2.2.length) ++ w.2.2.2)
    let bytes := ws.flatMap fun w => wireBytes w.1 w.2.1 w.2.2.1 w.2.2.2 (crcOf w)
    s.rx = [] → ws ≠ [] → (∀ w ∈ ws, w.2.2.2.length < 2 ^ 16) → bytes.length ≤ s.cfg.bufCap →
    s.statOk + ws.length < 2 ^ s.cfg.cntW →
    performAll [.ingest bytes, .drain] s = some
      { s with
        dataReady := true
        statOk := s.statOk + ws.length
        returned := .frames (ws.map fun w =>
          ⟨0x01#8, w.1, kindOf w.1, w.2.1, w.2.2.1, BitVec.ofNat 16 w.2.2.2.length, w.2.2.2, crcOf w⟩) }

/-- R148 item 1: noise that holds no marker is drained to nothing but a trailing `AA`, with no frame and no count, whatever
its length. -/
def Obligations.PureNoiseYieldsNothing : Prop :=
  ∀ (s : State) (noise : List Byte), 30 ≤ s.cfg.bufCap → s.rx = [] → noise ≠ [] →
    (∀ j, ¬(noise[j]? = some 0xAA#8 ∧ noise[j + 1]? = some 0x55#8)) →
    performAll [.ingest noise, .drain] s = some
      { s with rx := (if noise.getLast? = some 0xAA#8 then [0xAA#8] else []), dataReady := true, returned := .frames [] }

/-! ### The frame rows -/

/-- Every frame row runs in every state, right checksum or wrong: it is the INGEST of the frame's bytes and then a DRAIN (the
model's choice, log entry 5). -/
def Obligations.FrameRowsAreIngestThenDrain : Prop :=
  ∀ (id : Byte) (q : U16) (t : U32) (p : List Byte) (c : U16) (s : State),
    let both := fun m => performAll [.ingest (wireBytes m q t p c), .drain] s
    (∃ u, exec (.command q t p c) s = .next u ∧ both 0x01#8 = some u) ∧
    (∃ u, exec (.heartbeat q t p c) s = .next u ∧ both 0x10#8 = some u) ∧
    (∃ u, exec (.heartbeatAck q t p c) s = .next u ∧ both 0x11#8 = some u) ∧
    (∃ u, exec (.reserved20 q t p c) s = .next u ∧ both 0x20#8 = some u) ∧
    (∃ u, exec (.reserved40 q t p c) s = .next u ∧ both 0x40#8 = some u) ∧
    (∃ u, exec (.unsupportedId id q t p c) s = .next u ∧ both id = some u)

/-- R117 to R120, receiver: a frame with a right checksum that reaches an empty buffer and fits it is yielded with its kind
and consumed whole; `stat_ok` counts it and `stat_unsupported` does not. That the receipt of a frame is one instruction is
the model's choice (log entry 5). -/
def Obligations.ReceivedFrameIsYielded : Prop :=
  ∀ (s : State) (q : U16) (t : U32) (p : List Byte),
    s.rx = [] → p.length < 2 ^ 16 → 14 + p.length ≤ s.cfg.bufCap →
    let lenField : U16 := BitVec.ofNat 16 p.length
    let crcOf := fun id : Byte => crc16 ([0x01#8, id] ++ bytesBe16 q ++ bytesBe32 t ++ bytesBe16 lenField ++ p)
    let after := fun (id : Byte) (k : Kind) =>
      { s with dataReady := true, statOk := satInc s.cfg s.statOk,
               returned := .frames [⟨0x01#8, id, k, q, t, lenField, p, crcOf id⟩] }
    exec (.command q t p (crcOf 0x01#8)) s = .next (after 0x01#8 .command) ∧
    exec (.heartbeat q t p (crcOf 0x10#8)) s = .next (after 0x10#8 .heartbeat) ∧
    exec (.heartbeatAck q t p (crcOf 0x11#8)) s = .next (after 0x11#8 .heartbeatAck) ∧
    exec (.reserved20 q t p (crcOf 0x20#8)) s = .next (after 0x20#8 (.unsupported 0x20#8)) ∧
    exec (.reserved40 q t p (crcOf 0x40#8)) s = .next (after 0x40#8 (.unsupported 0x40#8)) ∧
    ∀ id : Byte, id ∉ assignedIds → exec (.unsupportedId id q t p (crcOf id)) s = .next (after id (.unsupported id))

/-- R72 row 4 on the frame rows: a payload-free frame with a wrong checksum yields nothing, is counted once as a CRC error
and not as ok, and leaves fewer bytes than it brought. -/
def Obligations.ReceivedFrameWithBadChecksum : Prop :=
  ∀ (s : State) (id : Byte) (q : U16) (t : U32) (c : U16), 30 ≤ s.cfg.bufCap → s.rx = [] → s.statCrcErr < counterMax s.cfg →
    c ≠ crc16 ([0x01#8, id] ++ bytesBe16 q ++ bytesBe32 t ++ bytesBe16 0#16) →
    ∃ u, exec (frameInstr id q t [] c) s = .next u ∧ u.returned = .frames [] ∧ u.statCrcErr = s.statCrcErr + 1 ∧
      u.statOk = s.statOk ∧ u.statLenErr = s.statLenErr ∧ u.statUnsupported = s.statUnsupported ∧ u.rx.length < 14

/-- R117 to R119, sender: the derived constructors are one ENCODE each, and what they build is exactly the wire frame that
the frame row stands for. -/
def Obligations.DerivedConstructorsBuildTheFrameRows : Prop :=
  ∀ (q : U16) (t : U32) (v : Channels Int) (s : State),
    (∃ c, exec (encodeCommand q t v) s = .next { s with returned := .encoded (.ok (encode (.command q t (packCmd v) c))) } ∧
      (encode (.command q t (packCmd v) c)).length = 30) ∧
    (∃ c, exec (encodeHeartbeat q t) s = .next { s with returned := .encoded (.ok (encode (.heartbeat q t [] c))) } ∧
      (encode (.heartbeat q t [] c)).length = 14) ∧
    (∃ c, exec (encodeAck q t) s = .next { s with returned := .encoded (.ok (encode (.heartbeatAck q t [] c))) } ∧
      (encode (.heartbeatAck q t [] c)).length = 14)

/-! ### The whole machine -/

/-- R180: no operation faults and none is refused; a step never faults. -/
def Obligations.NothingFaults : Prop :=
  (∀ (i : Instr) (s : State), ∃ t, exec i s = .next t) ∧ ∀ (s : State) (e : Fault), step s ≠ .fault e

/-- The invariant (R7, R24, R28) holds after construction with any allowed parameters, and after reset. -/
def Obligations.InvariantHoldsAtReset : Prop :=
  State.reset.Inv ∧ ∀ c : Config, c.ok = true → (State.construct c).Inv

/-- R24 and R28: every step keeps the invariant: the occupied length never exceeds the capacity, and every counter fits its
width. -/
def Obligations.EveryStepKeepsTheInvariant : Prop :=
  ∀ s t : State, s.Inv → step s = .next t → t.Inv

/-- R20's "written by" column, R26, R27 and R29, over every instruction: which may change each element; the parameters are
changed by none. Two clauses are the model's choice and no rule: that the operations still issued are changed by none, RESET
included (log entry 3), and that a frame row writes what INGEST and DRAIN write (log entry 5). -/
def Obligations.OnlyTheListedOperationsWrite : Prop :=
  ∀ (i : Instr) (s t : State), exec i s = .next t →
    let isFrame := ∃ id q ts p c, i = .unsupportedId id q ts p c ∨ i = .command q ts p c ∨ i = .heartbeat q ts p c ∨
      i = .heartbeatAck q ts p c ∨ i = .reserved20 q ts p c ∨ i = .reserved40 q ts p c
    let isIngest := ∃ chunk, i = .ingest chunk
    let isScan := i = .scanStep ∨ i = .drainNext ∨ i = .drain
    t.cfg = s.cfg ∧ t.requests = s.requests ∧
    (¬isFrame → ¬isIngest → ¬isScan → i ≠ .reset → t.rx = s.rx) ∧
    (¬isFrame → ¬isIngest → i ≠ .readyClear → i ≠ .reset → t.dataReady = s.dataReady) ∧
    (¬isFrame → ¬isScan → i ≠ .statsClear → i ≠ .reset → t.statOk = s.statOk ∧ t.statCrcErr = s.statCrcErr ∧
      t.statLenErr = s.statLenErr ∧ t.statUnsupported = s.statUnsupported) ∧
    (i ≠ .crcInit → (∀ b, i ≠ .crcByte b) → i ≠ .reset → t.crcAcc = s.crcAcc)

/-- R49 and 41_frame_codec.md: the pure operations change no state element and their results depend on the operands and
`BUF_CAP` alone; so does none of them depend on another. -/
def Obligations.PureOperationsReadAndWriteNoState : Prop :=
  ∀ (i : Instr) (s s' : State), pureOp i = true → s.cfg.bufCap = s'.cfg.bufCap →
    ∃ r, exec i s = .next { s with returned := r } ∧ exec i s' = .next { s' with returned := r }

/-- The port is not state of the block (log entry 3): no operation's effect or result depends on the operations still issued
or on the last result. -/
def Obligations.PortIsNotReadByOperations : Prop :=
  ∀ (i : Instr) (s t : State) (q : List Byte) (r : Returned), exec i s = .next t →
    exec i { s with requests := q, returned := r } = .next { t with requests := q }

/-- R190 and R10: what an agent that keeps to its rights can do to each element: the Producer appends to the buffer (BufAppend,
with its overflow) and the others take bytes from the front only, the Sender none; the Producer alone raises the flag and
does not clear it, the Sender leaves it alone; the Producer and the Sender leave the counters alone, the Producer and the
Consumer the CRC register. The block does not enforce the rights (log entry 10). -/
def Obligations.AgentsWriteOnlyWhatTheyOwn : Prop :=
  ∀ (a : Agent) (i : Instr) (s t : State), a.mayIssue i = true → exec i s = .next t →
    (a ≠ .producer → ∃ k, t.rx = s.rx.drop k) ∧
    (a = .producer → ∃ chunk, t.rx = bufAppend s.cfg.bufCap s.rx chunk) ∧
    (a = .sender → t.rx = s.rx ∧ t.dataReady = s.dataReady) ∧
    (a ≠ .producer → s.dataReady = false → t.dataReady = false) ∧
    (a = .producer → s.dataReady = true → t.dataReady = true) ∧
    (a = .producer ∨ a = .sender → t.statOk = s.statOk ∧ t.statCrcErr = s.statCrcErr ∧ t.statLenErr = s.statLenErr ∧
      t.statUnsupported = s.statUnsupported) ∧
    (a = .producer ∨ a = .consumer → t.crcAcc = s.crcAcc)

/-- R75: the outcome codes. ENCODE, DECODE, UNPACK_CMD, SCAN_STEP and DRAIN_NEXT answer results of these forms, and each
result has the number of the table. -/
def Obligations.OutcomeCodesOfTheOperations : Prop :=
  let number := fun r : Returned => r.code.map OutcomeCode.number
  (∀ (f : Frame) (total n : Nat) (b : List Byte) (v : Channels U16),
    [.encoded (.ok b), .decoded (.ok f total), .unpacked (.ok v), .scanned (.frame f), .next (some f)].map number =
      [some 0, some 0, some 0, some 0, some 0] ∧
    [.decoded (.error .badMarker), .decoded (.error .tooShort), .decoded (.error .badVersion),
      .decoded (.error .badLength), .decoded (.error .incomplete), .decoded (.error .badCrc)].map number =
      [some 1, some 2, some 3, some 4, some 5, some 6] ∧
    [.scanned (.discard .version n), .scanned (.discard .length n), .scanned (.discard .crc n),
      .scanned (.discard .noise n), .scanned .wait, .next none, .encoded .encLen, .unpacked .badPayloadLen].map number =
      [some 3, some 4, some 6, some 7, some 8, some 8, some 9, some 10]) ∧
  ∀ (i : Instr) (s t : State), exec i s = .next t →
    ((number t.returned).isSome = true ↔
      (∃ m q ts p, i = .encodeFrame m q ts p) ∨ (∃ b, i = .decodeFrame b) ∨ (∃ p, i = .unpackCmd p) ∨ i = .scanStep ∨
        i = .drainNext)

/-! ### The port and the encodings -/

/-- A step performs the operation that its bytes decode to, whole, and moves past exactly those bytes. -/
def Obligations.StepRunsTheDecodedInstruction : Prop :=
  ∀ (s : State) (i : Instr) (rest : List Byte), decode s.requests = .ok (i, rest) →
    step s = exec i { s with requests := rest }

/-- R47 and R50: whatever operations are issued, the machine's steps are those operations performed whole, one after another,
in issue order, each seeing the effects of all before it; all of them run. (The port that they are issued through is the
model's choice, log entries 3 and 4.) -/
def Obligations.IssuedOperationsRunInOrder : Prop :=
  ∀ (ops : List Instr) (later : List Byte) (s : State), (∀ i ∈ ops, i.wf = true) →
    s.requests = ops.flatMap encode ++ later →
    ∃ t, runSteps ops.length s = some t ∧ performAll ops { s with requests := later } = some t ∧ t.requests = later

/-- With nothing issued the block takes no step of its own (R10); bytes at the port that are no operation are refused by the
decoder's own name for them: an unassigned select code, an index above 3 (R170), a wrong marker or version after `AA`, a
frame header that ends early, a longer spelling of a length. That there is a port, and that such bytes are refused, is the
model's choice (log entries 3 and 12). -/
def Obligations.StepWithoutAnOperation : Prop :=
  (∀ s : State, s.requests = [] → step s = .next s) ∧
  (∀ (s : State) (why : Reject), s.requests ≠ [] → decode s.requests = .error why →
    step s = .refused (.notAnOperation why)) ∧
  (∀ (s : State) (b : Byte) (rest : List Byte), s.requests = b :: rest → b ≠ 0xAA#8 → b ∉ allSelects.map Select.code →
    step s = .refused (.notAnOperation (.unassignedSelect b))) ∧
  (∀ (s : State) (b : Byte) (rest : List Byte), s.requests = 0x01#8 :: b :: rest → 3 < b.toNat →
    step s = .refused (.notAnOperation (.noSuchCounter b))) ∧
  (∀ (s : State) (b : Byte) (rest : List Byte), s.requests = 0xAA#8 :: b :: rest → b ≠ 0x55#8 →
    step s = .refused (.notAnOperation (.badMarker b))) ∧
  (∀ (s : State) (b : Byte) (rest : List Byte), s.requests = 0xAA#8 :: 0x55#8 :: b :: rest → b ≠ 0x01#8 →
    step s = .refused (.notAnOperation (.badVersion b))) ∧
  (∀ (s : State) (rest : List Byte), s.requests = 0xAA#8 :: 0x55#8 :: 0x01#8 :: rest → s.requests.length < 14 →
    step s = .refused (.notAnOperation .truncated)) ∧
  ∀ (s : State) (c : Select) (rest : List Byte), c = .crcBlock ∨ c = .decodeFrame ∨ c = .unpackCmd ∨ c = .ingest →
    s.requests = c.code :: 0x80#8 :: 0x00#8 :: rest → step s = .refused (.notAnOperation .overlongNat)

/-- Decode and encode agree: every well-formed instruction, with every operand at every value, is read back from its bytes,
whatever follows them. -/
def Obligations.DecodeOfEncodeIsTheInstruction : Prop :=
  ∀ (i : Instr) (rest : List Byte), i.wf = true → decode (encode i ++ rest) = .ok (i, rest)

/-- And the other way: what decodes is well-formed, and its bytes are exactly its encoding; no instruction has two
spellings. -/
def Obligations.EncodeOfDecodeIsTheBytes : Prop :=
  ∀ (bytes : List Byte) (i : Instr) (rest : List Byte), decode bytes = .ok (i, rest) →
    i.wf = true ∧ bytes = encode i ++ rest

/-- The opcode table: operation rows never overlap, frame rows overlap only with the catch-all, the last row; an operation's
first byte is its select code of R74; and words written out from the spec decode to the instructions they stand for (R60,
R74, frame HB1 of 95_test_vectors.md). The bytes that follow a select code are the model's choice (log entry 4). -/
def Obligations.OpcodeTableIsUnambiguous : Prop :=
  opRows.Pairwise (fun a b => a.overlaps b = false) ∧ frameRows.dropLast.Pairwise (fun a b => a.overlaps b = false) ∧
  ([Instr.reset, .statsClear, .crcInit, .crcRead, .scanStep, .drainNext, .drain, .readyClear].map encode =
    [[0x00#8], [0x02#8], [0x10#8], [0x12#8], [0x31#8], [0x32#8], [0x33#8], [0x34#8]]) ∧
  (∀ (k : Counter) (b id : Byte) (q : U16) (t : U32) (p : List Byte) (v : Channels Int),
    [Instr.statsRead k, .crcByte b, .crcBlock p, .encodeFrame id q t p, .decodeFrame p, .packCmd v, .unpackCmd p, .ingest p].map
        (fun i => (encode i).head?) =
      [some 0x01#8, some 0x11#8, some 0x13#8, some 0x20#8, some 0x21#8, some 0x22#8, some 0x23#8, some 0x30#8]) ∧
  decode [0xAA#8, 0x55#8, 0x01#8, 0x10#8, 0x00#8, 0x01#8, 0x00#8, 0x00#8, 0x00#8, 0x00#8, 0x00#8, 0x00#8, 0x65#8, 0xE3#8] =
    .ok (.heartbeat 1#16 0#32 [] 0x65E3#16, []) ∧
  decode [0x34#8] = .ok (.readyClear, []) ∧ decode [0x01#8, 0x02#8] = .ok (.statsRead .lenErr, []) ∧
  decode [0x11#8, 0x31#8] = .ok (.crcByte 0x31#8, [])
end

