-- ==== Sys2Proof/Laws/State.lean ====
section
/-! SUPPORT. What each named update of State leaves in each field, so that no later proof unfolds a record update. -/

namespace Sys2Proof.Machine

/-! ### setReady -/

@[simp] theorem State.setReady_cfg (s : State) : (s.setReady).cfg = s.cfg := rfl
@[simp] theorem State.setReady_rx (s : State) : (s.setReady).rx = s.rx := rfl
@[simp] theorem State.setReady_dataReady (s : State) : (s.setReady).dataReady = true := rfl
@[simp] theorem State.setReady_statOk (s : State) : (s.setReady).statOk = s.statOk := rfl
@[simp] theorem State.setReady_statCrcErr (s : State) : (s.setReady).statCrcErr = s.statCrcErr := rfl
@[simp] theorem State.setReady_statLenErr (s : State) : (s.setReady).statLenErr = s.statLenErr := rfl
@[simp] theorem State.setReady_statUnsupported (s : State) : (s.setReady).statUnsupported = s.statUnsupported := rfl
@[simp] theorem State.setReady_crcAcc (s : State) : (s.setReady).crcAcc = s.crcAcc := rfl
@[simp] theorem State.setReady_requests (s : State) : (s.setReady).requests = s.requests := rfl
@[simp] theorem State.setReady_returned (s : State) : (s.setReady).returned = s.returned := rfl

/-! ### clearReady -/

@[simp] theorem State.clearReady_cfg (s : State) : (s.clearReady).cfg = s.cfg := rfl
@[simp] theorem State.clearReady_rx (s : State) : (s.clearReady).rx = s.rx := rfl
@[simp] theorem State.clearReady_dataReady (s : State) : (s.clearReady).dataReady = false := rfl
@[simp] theorem State.clearReady_statOk (s : State) : (s.clearReady).statOk = s.statOk := rfl
@[simp] theorem State.clearReady_statCrcErr (s : State) : (s.clearReady).statCrcErr = s.statCrcErr := rfl
@[simp] theorem State.clearReady_statLenErr (s : State) : (s.clearReady).statLenErr = s.statLenErr := rfl
@[simp] theorem State.clearReady_statUnsupported (s : State) : (s.clearReady).statUnsupported = s.statUnsupported := rfl
@[simp] theorem State.clearReady_crcAcc (s : State) : (s.clearReady).crcAcc = s.crcAcc := rfl
@[simp] theorem State.clearReady_requests (s : State) : (s.clearReady).requests = s.requests := rfl
@[simp] theorem State.clearReady_returned (s : State) : (s.clearReady).returned = s.returned := rfl

/-! ### countOk -/

@[simp] theorem State.countOk_cfg (s : State) : (s.countOk).cfg = s.cfg := rfl
@[simp] theorem State.countOk_rx (s : State) : (s.countOk).rx = s.rx := rfl
@[simp] theorem State.countOk_dataReady (s : State) : (s.countOk).dataReady = s.dataReady := rfl
@[simp] theorem State.countOk_statOk (s : State) : (s.countOk).statOk = satInc s.cfg s.statOk := rfl
@[simp] theorem State.countOk_statCrcErr (s : State) : (s.countOk).statCrcErr = s.statCrcErr := rfl
@[simp] theorem State.countOk_statLenErr (s : State) : (s.countOk).statLenErr = s.statLenErr := rfl
@[simp] theorem State.countOk_statUnsupported (s : State) : (s.countOk).statUnsupported = s.statUnsupported := rfl
@[simp] theorem State.countOk_crcAcc (s : State) : (s.countOk).crcAcc = s.crcAcc := rfl
@[simp] theorem State.countOk_requests (s : State) : (s.countOk).requests = s.requests := rfl
@[simp] theorem State.countOk_returned (s : State) : (s.countOk).returned = s.returned := rfl

/-! ### countCrcErr -/

@[simp] theorem State.countCrcErr_cfg (s : State) : (s.countCrcErr).cfg = s.cfg := rfl
@[simp] theorem State.countCrcErr_rx (s : State) : (s.countCrcErr).rx = s.rx := rfl
@[simp] theorem State.countCrcErr_dataReady (s : State) : (s.countCrcErr).dataReady = s.dataReady := rfl
@[simp] theorem State.countCrcErr_statOk (s : State) : (s.countCrcErr).statOk = s.statOk := rfl
@[simp] theorem State.countCrcErr_statCrcErr (s : State) : (s.countCrcErr).statCrcErr = satInc s.cfg s.statCrcErr := rfl
@[simp] theorem State.countCrcErr_statLenErr (s : State) : (s.countCrcErr).statLenErr = s.statLenErr := rfl
@[simp] theorem State.countCrcErr_statUnsupported (s : State) : (s.countCrcErr).statUnsupported = s.statUnsupported := rfl
@[simp] theorem State.countCrcErr_crcAcc (s : State) : (s.countCrcErr).crcAcc = s.crcAcc := rfl
@[simp] theorem State.countCrcErr_requests (s : State) : (s.countCrcErr).requests = s.requests := rfl
@[simp] theorem State.countCrcErr_returned (s : State) : (s.countCrcErr).returned = s.returned := rfl

/-! ### countLenErr -/

@[simp] theorem State.countLenErr_cfg (s : State) : (s.countLenErr).cfg = s.cfg := rfl
@[simp] theorem State.countLenErr_rx (s : State) : (s.countLenErr).rx = s.rx := rfl
@[simp] theorem State.countLenErr_dataReady (s : State) : (s.countLenErr).dataReady = s.dataReady := rfl
@[simp] theorem State.countLenErr_statOk (s : State) : (s.countLenErr).statOk = s.statOk := rfl
@[simp] theorem State.countLenErr_statCrcErr (s : State) : (s.countLenErr).statCrcErr = s.statCrcErr := rfl
@[simp] theorem State.countLenErr_statLenErr (s : State) : (s.countLenErr).statLenErr = satInc s.cfg s.statLenErr := rfl
@[simp] theorem State.countLenErr_statUnsupported (s : State) : (s.countLenErr).statUnsupported = s.statUnsupported := rfl
@[simp] theorem State.countLenErr_crcAcc (s : State) : (s.countLenErr).crcAcc = s.crcAcc := rfl
@[simp] theorem State.countLenErr_requests (s : State) : (s.countLenErr).requests = s.requests := rfl
@[simp] theorem State.countLenErr_returned (s : State) : (s.countLenErr).returned = s.returned := rfl

/-! ### countUnsupported -/

@[simp] theorem State.countUnsupported_cfg (s : State) : (s.countUnsupported).cfg = s.cfg := rfl
@[simp] theorem State.countUnsupported_rx (s : State) : (s.countUnsupported).rx = s.rx := rfl
@[simp] theorem State.countUnsupported_dataReady (s : State) : (s.countUnsupported).dataReady = s.dataReady := rfl
@[simp] theorem State.countUnsupported_statOk (s : State) : (s.countUnsupported).statOk = s.statOk := rfl
@[simp] theorem State.countUnsupported_statCrcErr (s : State) : (s.countUnsupported).statCrcErr = s.statCrcErr := rfl
@[simp] theorem State.countUnsupported_statLenErr (s : State) : (s.countUnsupported).statLenErr = s.statLenErr := rfl
@[simp] theorem State.countUnsupported_statUnsupported (s : State) : (s.countUnsupported).statUnsupported = satInc s.cfg s.statUnsupported := rfl
@[simp] theorem State.countUnsupported_crcAcc (s : State) : (s.countUnsupported).crcAcc = s.crcAcc := rfl
@[simp] theorem State.countUnsupported_requests (s : State) : (s.countUnsupported).requests = s.requests := rfl
@[simp] theorem State.countUnsupported_returned (s : State) : (s.countUnsupported).returned = s.returned := rfl

/-! ### clearCounters -/

@[simp] theorem State.clearCounters_cfg (s : State) : (s.clearCounters).cfg = s.cfg := rfl
@[simp] theorem State.clearCounters_rx (s : State) : (s.clearCounters).rx = s.rx := rfl
@[simp] theorem State.clearCounters_dataReady (s : State) : (s.clearCounters).dataReady = s.dataReady := rfl
@[simp] theorem State.clearCounters_statOk (s : State) : (s.clearCounters).statOk = 0 := rfl
@[simp] theorem State.clearCounters_statCrcErr (s : State) : (s.clearCounters).statCrcErr = 0 := rfl
@[simp] theorem State.clearCounters_statLenErr (s : State) : (s.clearCounters).statLenErr = 0 := rfl
@[simp] theorem State.clearCounters_statUnsupported (s : State) : (s.clearCounters).statUnsupported = 0 := rfl
@[simp] theorem State.clearCounters_crcAcc (s : State) : (s.clearCounters).crcAcc = s.crcAcc := rfl
@[simp] theorem State.clearCounters_requests (s : State) : (s.clearCounters).requests = s.requests := rfl
@[simp] theorem State.clearCounters_returned (s : State) : (s.clearCounters).returned = s.returned := rfl

/-! ### append -/

@[simp] theorem State.append_cfg (s : State) (chunk : List Byte) : (s.append chunk).cfg = s.cfg := rfl
@[simp] theorem State.append_rx (s : State) (chunk : List Byte) : (s.append chunk).rx = bufAppend s.cfg.bufCap s.rx chunk := rfl
@[simp] theorem State.append_dataReady (s : State) (chunk : List Byte) : (s.append chunk).dataReady = s.dataReady := rfl
@[simp] theorem State.append_statOk (s : State) (chunk : List Byte) : (s.append chunk).statOk = s.statOk := rfl
@[simp] theorem State.append_statCrcErr (s : State) (chunk : List Byte) : (s.append chunk).statCrcErr = s.statCrcErr := rfl
@[simp] theorem State.append_statLenErr (s : State) (chunk : List Byte) : (s.append chunk).statLenErr = s.statLenErr := rfl
@[simp] theorem State.append_statUnsupported (s : State) (chunk : List Byte) : (s.append chunk).statUnsupported = s.statUnsupported := rfl
@[simp] theorem State.append_crcAcc (s : State) (chunk : List Byte) : (s.append chunk).crcAcc = s.crcAcc := rfl
@[simp] theorem State.append_requests (s : State) (chunk : List Byte) : (s.append chunk).requests = s.requests := rfl
@[simp] theorem State.append_returned (s : State) (chunk : List Byte) : (s.append chunk).returned = s.returned := rfl

/-! ### discard -/

@[simp] theorem State.discard_cfg (s : State) (n : Nat) : (s.discard n).cfg = s.cfg := rfl
@[simp] theorem State.discard_rx (s : State) (n : Nat) : (s.discard n).rx = bufDiscard s.rx n := rfl
@[simp] theorem State.discard_dataReady (s : State) (n : Nat) : (s.discard n).dataReady = s.dataReady := rfl
@[simp] theorem State.discard_statOk (s : State) (n : Nat) : (s.discard n).statOk = s.statOk := rfl
@[simp] theorem State.discard_statCrcErr (s : State) (n : Nat) : (s.discard n).statCrcErr = s.statCrcErr := rfl
@[simp] theorem State.discard_statLenErr (s : State) (n : Nat) : (s.discard n).statLenErr = s.statLenErr := rfl
@[simp] theorem State.discard_statUnsupported (s : State) (n : Nat) : (s.discard n).statUnsupported = s.statUnsupported := rfl
@[simp] theorem State.discard_crcAcc (s : State) (n : Nat) : (s.discard n).crcAcc = s.crcAcc := rfl
@[simp] theorem State.discard_requests (s : State) (n : Nat) : (s.discard n).requests = s.requests := rfl
@[simp] theorem State.discard_returned (s : State) (n : Nat) : (s.discard n).returned = s.returned := rfl

/-! ### handBack -/

@[simp] theorem State.handBack_cfg (s : State) (r : Returned) : (s.handBack r).cfg = s.cfg := rfl
@[simp] theorem State.handBack_rx (s : State) (r : Returned) : (s.handBack r).rx = s.rx := rfl
@[simp] theorem State.handBack_dataReady (s : State) (r : Returned) : (s.handBack r).dataReady = s.dataReady := rfl
@[simp] theorem State.handBack_statOk (s : State) (r : Returned) : (s.handBack r).statOk = s.statOk := rfl
@[simp] theorem State.handBack_statCrcErr (s : State) (r : Returned) : (s.handBack r).statCrcErr = s.statCrcErr := rfl
@[simp] theorem State.handBack_statLenErr (s : State) (r : Returned) : (s.handBack r).statLenErr = s.statLenErr := rfl
@[simp] theorem State.handBack_statUnsupported (s : State) (r : Returned) : (s.handBack r).statUnsupported = s.statUnsupported := rfl
@[simp] theorem State.handBack_crcAcc (s : State) (r : Returned) : (s.handBack r).crcAcc = s.crcAcc := rfl
@[simp] theorem State.handBack_requests (s : State) (r : Returned) : (s.handBack r).requests = s.requests := rfl
@[simp] theorem State.handBack_returned (s : State) (r : Returned) : (s.handBack r).returned = r := rfl

/-! ### construct -/

@[simp] theorem State.construct_cfg (c : Config) : (State.construct c).cfg = c := rfl
@[simp] theorem State.construct_rx (c : Config) : (State.construct c).rx = [] := rfl
@[simp] theorem State.construct_dataReady (c : Config) : (State.construct c).dataReady = false := rfl
@[simp] theorem State.construct_statOk (c : Config) : (State.construct c).statOk = 0 := rfl
@[simp] theorem State.construct_statCrcErr (c : Config) : (State.construct c).statCrcErr = 0 := rfl
@[simp] theorem State.construct_statLenErr (c : Config) : (State.construct c).statLenErr = 0 := rfl
@[simp] theorem State.construct_statUnsupported (c : Config) : (State.construct c).statUnsupported = 0 := rfl
@[simp] theorem State.construct_crcAcc (c : Config) : (State.construct c).crcAcc = Config.crcInit := rfl
@[simp] theorem State.construct_requests (c : Config) : (State.construct c).requests = [] := rfl
@[simp] theorem State.construct_returned (c : Config) : (State.construct c).returned = .nothing := rfl

/-- Two states with equal fields are equal, field by field. -/
theorem State.eq_of_fields {s t : State} (hcfg : s.cfg = t.cfg) (hrx : s.rx = t.rx) (hready : s.dataReady = t.dataReady)
    (hok : s.statOk = t.statOk) (hcrc : s.statCrcErr = t.statCrcErr) (hlen : s.statLenErr = t.statLenErr)
    (huns : s.statUnsupported = t.statUnsupported) (hacc : s.crcAcc = t.crcAcc) (hreq : s.requests = t.requests)
    (hret : s.returned = t.returned) : s = t := by
  cases s; cases t; simp_all

end Sys2Proof.Machine
end

