-- ==== Sys2Proof/Laws/Operands.lean ====
section
/-! SUPPORT. The laws of operand assembly: reading a byte, reading back what was written, slices. -/

namespace Sys2Proof

@[simp] theorem byteAt_cons_zero (b : Byte) (s : List Byte) : byteAt (b :: s) 0 = b := rfl

theorem byteAt_cons_succ {b : Byte} {s : List Byte} {i : Nat} (h : i < s.length) :
    byteAt (b :: s) (i + 1) = byteAt s i := by
  simp [byteAt, h]

/-- Within the occupied bytes `byteAt` is the list's own entry; the free value is not consulted. -/
theorem byteAt_eq_getElem {s : List Byte} {i : Nat} (h : i < s.length) : byteAt s i = s[i] := by
  simp [byteAt, h]

theorem byteAt_append_left {s t : List Byte} {i : Nat} (h : i < s.length) : byteAt (s ++ t) i = byteAt s i := by
  simp [byteAt, h, List.getElem?_append_left]

theorem byteAt_append_right {s t : List Byte} {i : Nat} (h : i < t.length) : byteAt (s ++ t) (s.length + i) = byteAt t i := by
  simp [byteAt, h]

theorem byteAt_take {s : List Byte} {n i : Nat} (h : i < n) (hs : i < s.length) : byteAt (s.take n) i = byteAt s i := by
  rw [byteAt_eq_getElem hs, byteAt_eq_getElem (by simp; omega)]
  simp

theorem be16_append_left {s t : List Byte} {i : Nat} (h : i + 1 < s.length) : be16 (s ++ t) i = be16 s i := by
  simp only [be16, byteAt_append_left (t := t) (show i < s.length by omega), byteAt_append_left h]

theorem be32_append_left {s t : List Byte} {i : Nat} (h : i + 3 < s.length) : be32 (s ++ t) i = be32 s i := by
  simp only [be32, be16_append_left (t := t) (show i + 1 < s.length by omega), be16_append_left (t := t) (show i + 2 + 1 < s.length by omega)]

@[simp] theorem length_bytesBe16 (v : U16) : (bytesBe16 v).length = 2 := rfl

@[simp] theorem length_bytesBe32 (v : U32) : (bytesBe32 v).length = 4 := rfl

/-- The two halves of a 16-bit field put together again. -/
theorem halves16 (v : U16) : (v.extractLsb' 8 8 ++ v.extractLsb' 0 8 : U16) = v := by
  apply BitVec.eq_of_getLsbD_eq
  intro i hi
  simp only [BitVec.getLsbD_append, BitVec.getLsbD_extractLsb']
  split
  · simp [*]
  · simp [show i - 8 < 8 by omega, show 8 + (i - 8) = i by omega]

/-- The four bytes of a 32-bit field put together again. -/
theorem quarters32 (v : U32) :
    ((v.extractLsb' 24 8 ++ v.extractLsb' 16 8 : U16) ++ (v.extractLsb' 8 8 ++ v.extractLsb' 0 8 : U16) : U32) = v := by
  apply BitVec.eq_of_getLsbD_eq
  intro i hi
  simp only [BitVec.getLsbD_append, BitVec.getLsbD_extractLsb']
  split
  · split
    · simp [*]
    · simp [show i - 8 < 8 by omega, show 8 + (i - 8) = i by omega]
  · split
    · simp [*, show 16 + (i - 16) = i by omega]
    · simp [show i - 16 - 8 < 8 by omega, show 24 + (i - 16 - 8) = i by omega]

@[simp] theorem length_frameHead (id : Byte) (q : U16) (t : U32) (l : U16) (p : List Byte) :
    (frameHead id q t l p).length = 12 + p.length := by
  simp [frameHead]; omega

@[simp] theorem length_wireBytes (id : Byte) (q : U16) (t : U32) (p : List Byte) (c : U16) :
    (wireBytes id q t p c).length = 14 + p.length := by
  simp [wireBytes]; omega

/-- A slice that ends within the sequence has the length its bounds say. -/
theorem length_slice {s : List Byte} {i j : Nat} (h : j ≤ s.length) : (slice s i j).length = j - i := by
  simp [slice]; omega

theorem slice_append_left {s t : List Byte} {i j : Nat} (h : j ≤ s.length) : slice (s ++ t) i j = slice s i j := by
  simp [slice, List.take_append_of_le_length h]

/-! ### The fields of a wire frame, whatever stands after it -/

/-- A wire frame with its bytes listed (R60). -/
theorem wireBytes_eq (id : Byte) (q : U16) (t : U32) (p : List Byte) (c : U16) :
    wireBytes id q t p c =
      Config.marker0 :: Config.marker1 :: Config.version :: id :: q.extractLsb' 8 8 :: q.extractLsb' 0 8 ::
        t.extractLsb' 24 8 :: t.extractLsb' 16 8 :: t.extractLsb' 8 8 :: t.extractLsb' 0 8 ::
        (BitVec.ofNat 16 p.length).extractLsb' 8 8 :: (BitVec.ofNat 16 p.length).extractLsb' 0 8 ::
        (p ++ bytesBe16 c) := by
  simp [wireBytes, frameHead, bytesBe16, bytesBe32]

section WireFields

variable (id : Byte) (q : U16) (t : U32) (p : List Byte) (c : U16) (rest : List Byte)

theorem wire_marker0 : byteAt (wireBytes id q t p c ++ rest) 0 = Config.marker0 := by
  simp [wireBytes_eq, byteAt]

theorem wire_marker1 : byteAt (wireBytes id q t p c ++ rest) 1 = Config.marker1 := by
  simp [wireBytes_eq, byteAt]

theorem wire_version : byteAt (wireBytes id q t p c ++ rest) 2 = Config.version := by
  simp [wireBytes_eq, byteAt]

theorem wire_messageId : byteAt (wireBytes id q t p c ++ rest) 3 = id := by
  simp [wireBytes_eq, byteAt]

theorem wire_sequence : be16 (wireBytes id q t p c ++ rest) 4 = q := by
  simp [wireBytes_eq, be16, byteAt, halves16]

theorem wire_timestamp : be32 (wireBytes id q t p c ++ rest) 6 = t := by
  simpa [wireBytes_eq, be32, be16, byteAt] using quarters32 t

theorem wire_length : be16 (wireBytes id q t p c ++ rest) 10 = BitVec.ofNat 16 p.length := by
  simp [wireBytes_eq, be16, byteAt, halves16]

theorem wire_payload : slice (wireBytes id q t p c ++ rest) 12 (12 + p.length) = p := by
  simp [wireBytes_eq, slice, Nat.add_comm 12 p.length]

theorem wire_body : slice (wireBytes id q t p c ++ rest) 2 (12 + p.length) =
    (frameHead id q t (BitVec.ofNat 16 p.length) p).drop 2 := by
  have h : (wireBytes id q t p c ++ rest).take (12 + p.length) = frameHead id q t (BitVec.ofNat 16 p.length) p := by
    rw [wireBytes, List.append_assoc, List.take_append_of_le_length (by simp), List.take_of_length_le (by simp)]
  rw [slice, h]

theorem wire_checksum : be16 (wireBytes id q t p c ++ rest) (12 + p.length) = c := by
  have h : wireBytes id q t p c ++ rest = frameHead id q t (BitVec.ofNat 16 p.length) p ++ (bytesBe16 c ++ rest) := by
    simp [wireBytes]
  have hl : 12 + p.length = (frameHead id q t (BitVec.ofNat 16 p.length) p).length := by simp
  rw [h, hl, be16, show ∀ n, byteAt (frameHead id q t (BitVec.ofNat 16 p.length) p ++ (bytesBe16 c ++ rest)) n =
    byteAt (frameHead id q t (BitVec.ofNat 16 p.length) p ++ (bytesBe16 c ++ rest)) (n + 0) from fun _ => rfl,
    byteAt_append_right (by simp), byteAt_append_right (by simp; omega)]
  simp [bytesBe16, byteAt, halves16]

end WireFields

end Sys2Proof
end

