-- ==== Sys2Proof/Laws/Crc.lean ====
section
/-! SUPPORT. The laws of the CRC unit: the shift and the step are linear, and a shift loses nothing. -/

namespace Sys2Proof.Machine

/-- Bit 0 of a shifted remainder is the bit that was shifted out (R97 item 4). -/
theorem crcShift_bit0 (c : U16) : (crcShift c).getLsbD 0 = c.getLsbD 15 := by
  unfold crcShift
  split <;> simp_all [Config.crcPoly]

/-- Shifting is linear: the shift of an exclusive or is the exclusive or of the shifts. -/
theorem crcShift_xor (c d : U16) : crcShift (c ^^^ d) = crcShift c ^^^ crcShift d := by
  apply BitVec.eq_of_getLsbD_eq
  intro i hi
  simp only [crcShift, BitVec.getLsbD_xor]
  cases c.getLsbD 15 <;> cases d.getLsbD 15 <;>
    simp only [Bool.xor_false, Bool.xor_true, Bool.not_true, Bool.not_false, Bool.false_eq_true,
      if_true, if_false, BitVec.getLsbD_xor, BitVec.getLsbD_shiftLeft] <;>
    cases (Config.crcPoly).getLsbD i <;> simp <;> grind

theorem crcShifts_xor (n : Nat) (c d : U16) : crcShifts n (c ^^^ d) = crcShifts n c ^^^ crcShifts n d := by
  induction n generalizing c d with
  | zero => rfl
  | succ n ih => simp only [crcShifts, crcShift_xor, ih]

theorem crcShifts_add (m n : Nat) (c : U16) : crcShifts (m + n) c = crcShifts n (crcShifts m c) := by
  induction m generalizing c with
  | zero => simp [crcShifts]
  | succ m ih => rw [Nat.succ_add, crcShifts, crcShifts, ih]

/-- A remainder whose shift is zero is zero. -/
theorem crcShift_eq_zero {c : U16} (h : crcShift c = 0#16) : c = 0#16 := by
  have h15 : c.getLsbD 15 = false := by rw [← crcShift_bit0, h]; rfl
  have hs : c <<< 1 = 0#16 := by rwa [crcShift, if_neg (by rw [h15]; decide)] at h
  apply BitVec.eq_of_getLsbD_eq
  intro i hi
  by_cases hi' : i = 15
  · subst hi'; exact h15
  · have := congrArg (fun v => v.getLsbD (i + 1)) hs
    simp only [BitVec.getLsbD_shiftLeft] at this
    simpa [show i + 1 < 16 by omega] using this

@[simp] theorem crcFrom_nil (c : U16) : crcFrom c [] = c := rfl

theorem crcFrom_cons (c : U16) (b : Byte) (s : List Byte) : crcFrom c (b :: s) = crcFrom (crcStep c b) s := rfl

/-- Running over `a ++ b` is running over `a`, then over `b`. -/
theorem crcFrom_append (c : U16) (a b : List Byte) : crcFrom c (a ++ b) = crcFrom (crcFrom c a) b := by
  simp [crcFrom]

/-- The final exclusive or with `0x0000` changes nothing. -/
theorem crc16_eq (s : List Byte) : crc16 s = crcFrom Config.crcInit s := by
  simp [crc16, Config.crcXorOut]

end Sys2Proof.Machine
end

