-- ==== Sys2Proof/Laws/Memory.lean ====
section
/-! SUPPORT. The laws of the receive buffer: every operation keeps the capacity bound (R24), what each does to the
list of bytes, and the view of the buffer as (offset, byte) cells. -/

namespace Sys2Proof.Machine

/-! ### Each primitive keeps `Memory.wf` -/

theorem bufPush_wf {cap : Nat} {m : Memory} {b : Byte} (hcap : 0 < cap) (h : m.wf cap = true) :
    (bufPush cap m b).wf cap = true := by
  simp only [Memory.wf, decide_eq_true_eq] at *
  unfold bufPush
  split <;> simp <;> omega

theorem bufAppend_wf {cap : Nat} {m : Memory} {chunk : List Byte} (hcap : 0 < cap) (h : m.wf cap = true) :
    (bufAppend cap m chunk).wf cap = true := by
  induction chunk generalizing m with
  | nil => exact h
  | cons b bs ih => exact ih (bufPush_wf hcap h)

theorem bufDiscard_wf {cap : Nat} {m : Memory} {n : Nat} (h : m.wf cap = true) : (bufDiscard m n).wf cap = true := by
  simp only [Memory.wf, bufDiscard, decide_eq_true_eq, List.length_drop] at *
  omega

theorem construct_wf (c : Config) : (State.construct c).rx.wf c.bufCap = true := by
  simp [Memory.wf]

theorem reset_wf : State.reset.rx.wf State.reset.cfg.bufCap = true := construct_wf _

/-! ### The cell view -/

/-- The cells' offsets are `0, 1, …`: strictly rising, each below `rx_len`. -/
theorem cells_offsets (m : Memory) : m.cells.map Prod.fst = List.range m.length := by
  rw [Memory.cells, List.map_map, show Prod.fst ∘ (fun p : Byte × Nat => (p.2, p.1)) = Prod.snd from rfl,
    List.zipIdx_map_snd, List.range_eq_range']

/-- Two buffers with the same cells are the same buffer. -/
theorem cells_injective {m m' : Memory} (h : m.cells = m'.cells) : m = m' := by
  have := congrArg (List.map Prod.snd) h
  simpa [Memory.cells, Function.comp_def] using this

/-! ### What the primitives do -/

/-- `BufAppend` of nothing. -/
@[simp] theorem bufAppend_nil (cap : Nat) (m : Memory) : bufAppend cap m [] = m := rfl

/-- `BufAppend` byte by byte. -/
theorem bufAppend_cons (cap : Nat) (m : Memory) (b : Byte) (bs : List Byte) :
    bufAppend cap m (b :: bs) = bufAppend cap (bufPush cap m b) bs := rfl

/-- With room for the whole chunk nothing is dropped (R43). -/
theorem bufAppend_of_room {cap : Nat} {m : Memory} {chunk : List Byte} (h : m.length + chunk.length ≤ cap) :
    bufAppend cap m chunk = m ++ chunk := by
  induction chunk generalizing m with
  | nil => simp
  | cons b bs ih =>
    simp only [List.length_cons] at h
    have hp : bufPush cap m b = m ++ [b] := by simp [bufPush, show m.length ≠ cap by omega]
    rw [bufAppend_cons, hp, ih (by simp; omega)]
    simp

/-- The two-byte read of the scan is the 16-bit big-endian field (R12, R44). -/
theorem memRead_two (m : Memory) (off : Nat) : memRead m off 2 = (be16 m off).toNat := by
  simp only [memRead, be16, BitVec.toNat_append, Nat.add_zero, Nat.zero_mul, Nat.zero_add]
  have h := (byteAt m (off + 1)).isLt
  rw [Nat.shiftLeft_eq, Nat.mul_comm _ (2 ^ 8), ← Nat.two_pow_add_eq_or_of_lt h]
  omega

end Sys2Proof.Machine
end

