-- ==== Sys2Proof/Laws/Codec.lean ====
section
/-! SUPPORT. The laws of the frame codec: ENCODE's bytes are a wire frame, what DECODE can answer, and the record that
ParseFrame reads from a wire frame. -/

namespace Sys2Proof.Machine

/-- The checksum of a frame: the CRC of its body, version to payload (R70). -/
theorem codecEncode_of_le {id : Byte} {q : U16} {t : U32} {p : List Byte} (h : p.length ≤ 16) :
    codecEncode id q t p =
      .ok (wireBytes id q t p (crc16 ((frameHead id q t (BitVec.ofNat 16 p.length) p).drop 2))) := by
  simp [codecEncode, Config.maxPayload, wireBytes, show ¬16 < p.length by omega]

theorem codecEncode_of_gt {id : Byte} {q : U16} {t : U32} {p : List Byte} (h : 16 < p.length) :
    codecEncode id q t p = .encLen := by
  simp [codecEncode, Config.maxPayload, h]

/-- ENCODE answered OK: the payload fits, and the bytes are that wire frame. -/
theorem codecEncode_ok {id : Byte} {q : U16} {t : U32} {p f : List Byte} (h : codecEncode id q t p = .ok f) :
    p.length ≤ 16 ∧ f = wireBytes id q t p (crc16 ((frameHead id q t (BitVec.ofNat 16 p.length) p).drop 2)) := by
  by_cases hp : p.length ≤ 16
  · rw [codecEncode_of_le hp] at h
    cases h
    exact ⟨hp, rfl⟩
  · rw [codecEncode_of_gt (by omega)] at h
    cases h

/-- Every answer of DECODE, with the tests that lead to it (R112). -/
theorem codecDecode_cases {cap : Nat} {s : List Byte} {r : DecodeResult} (h : codecDecode cap s = r) :
    (r = .error .tooShort ∧ s.length < 14) ∨
    (r = .error .badMarker ∧ 14 ≤ s.length ∧ (byteAt s 0 ≠ Config.marker0 ∨ byteAt s 1 ≠ Config.marker1)) ∨
    (14 ≤ s.length ∧ byteAt s 0 = Config.marker0 ∧ byteAt s 1 = Config.marker1 ∧
      ((r = .error .badVersion ∧ byteAt s 2 ≠ Config.version) ∨
       (byteAt s 2 = Config.version ∧
        ((r = .error .badLength ∧ cap < 14 + (be16 s 10).toNat) ∨
         (14 + (be16 s 10).toNat ≤ cap ∧
          ((r = .error .incomplete ∧ s.length < 14 + (be16 s 10).toNat) ∨
           (14 + (be16 s 10).toNat ≤ s.length ∧
            ((r = .error .badCrc ∧
                crc16 (slice s 2 (12 + (be16 s 10).toNat)) ≠ be16 s (12 + (be16 s 10).toNat)) ∨
             (r = .ok (parseFrame s) (14 + (be16 s 10).toNat) ∧
                crc16 (slice s 2 (12 + (be16 s 10).toNat)) = be16 s (12 + (be16 s 10).toNat)))))))))) := by
  simp only [codecDecode, Config.minFrameLen] at h
  split at h
  · exact .inl ⟨h.symm, by omega⟩
  split at h
  · exact .inr (.inl ⟨h.symm, by omega, by assumption⟩)
  rename_i hm
  refine .inr (.inr ⟨by omega, ?_, ?_, ?_⟩)
  · exact Classical.byContradiction fun h => hm (.inl h)
  · exact Classical.byContradiction fun h => hm (.inr h)
  split at h
  · exact .inl ⟨h.symm, by assumption⟩
  rename_i hv
  refine .inr ⟨Classical.byContradiction hv, ?_⟩
  split at h
  · exact .inl ⟨h.symm, by assumption⟩
  rename_i hcap
  refine .inr ⟨Nat.le_of_not_lt hcap, ?_⟩
  split at h
  · exact .inl ⟨h.symm, by assumption⟩
  rename_i hlen
  refine .inr ⟨Nat.le_of_not_lt hlen, ?_⟩
  split at h
  · exact .inl ⟨h.symm, by assumption⟩
  · rename_i hc
    exact .inr ⟨h.symm, Classical.byContradiction hc⟩

/-- The record that ParseFrame reads from a wire frame, whatever stands after it (R113). -/
theorem parseFrame_wire {p : List Byte} (h : p.length < 2 ^ 16) (id : Byte) (q : U16) (t : U32) (c : U16)
    (rest : List Byte) :
    parseFrame (wireBytes id q t p c ++ rest) =
      ⟨Config.version, id, kindOf id, q, t, BitVec.ofNat 16 p.length, p, c⟩ := by
  have hl : (BitVec.ofNat 16 p.length).toNat = p.length := by simp; omega
  simp only [parseFrame, wire_version, wire_messageId, wire_sequence, wire_timestamp, wire_length, hl, wire_payload,
    wire_checksum]

/-- The whole frame as a slice of a buffer that begins with it. -/
theorem slice_wire (id : Byte) (q : U16) (t : U32) (p : List Byte) (c : U16) (rest : List Byte) :
    slice (wireBytes id q t p c ++ rest) 0 (14 + p.length) = wireBytes id q t p c := by
  simp only [slice, List.drop_zero]
  rw [List.take_append_of_le_length (by simp), List.take_of_length_le (by simp)]

end Sys2Proof.Machine
end

