-- ==== Sys2Proof/Laws/Decode.lean ====
section
/-! SUPPORT. The laws of the operand readers: each reads back what its writer wrote, and reads nothing else. -/

namespace Sys2Proof

@[simp] theorem getByte_cons (b : Byte) (r : List Byte) : getByte (b :: r) = .ok (b, r) := rfl

@[simp] theorem getU16_put (v : U16) (r : List Byte) : getU16 (bytesBe16 v ++ r) = .ok (v, r) := by
  simp [getU16, bytesBe16, halves16]

@[simp] theorem getU32_put (v : U32) (r : List Byte) : getU32 (bytesBe32 v ++ r) = .ok (v, r) := by
  have h := quarters32 v
  simp only [bytesBe32, List.cons_append, List.nil_append, getU32]
  rw [h]

theorem getBytes_append {s : List Byte} {n : Nat} (h : s.length = n) (r : List Byte) :
    getBytes n (s ++ r) = .ok (s, r) := by
  subst h
  simp [getBytes]

/-- A natural with fuel enough reads back. -/
theorem getNat_putNatFuel {fuel n : Nat} (h : n ≤ fuel) (r : List Byte) : getNat (putNatFuel fuel n ++ r) = .ok (n, r) := by
  induction fuel generalizing n with
  | zero =>
    obtain rfl : n = 0 := by omega
    rfl
  | succ fuel ih =>
    by_cases hn : n < 128
    · have h1 : (BitVec.ofNat 8 n).toNat = n := by simp; omega
      simp [putNatFuel, hn, getNat, h1]
    · have h1 : (BitVec.ofNat 8 (128 + n % 128)).toNat = 128 + n % 128 := by simp; omega
      have h2 : n / 128 ≤ fuel := by omega
      have h3 : n / 128 ≠ 0 := by omega
      simp only [putNatFuel, hn, if_false, List.cons_append, getNat, h1, ih h2, h3]
      rw [if_neg (by omega)]
      simp only [Except.ok.injEq, Prod.mk.injEq, and_true]
      omega

@[simp] theorem getNat_putNat (n : Nat) (r : List Byte) : getNat (putNat n ++ r) = .ok (n, r) :=
  getNat_putNatFuel (Nat.le_refl n) r

@[simp] theorem getSeq_putSeq (s r : List Byte) : getSeq (putSeq s ++ r) = .ok (s, r) := by
  simp [getSeq, putSeq, List.append_assoc, getBytes_append]

@[simp] theorem unzigzag_zigzag (v : Int) : unzigzag (zigzag v) = v := by
  cases v with
  | ofNat n => simp [zigzag, unzigzag]
  | negSucc n =>
    have h1 : (2 * n + 1) % 2 = 1 := by omega
    have h2 : (2 * n + 1) / 2 = n := by omega
    simp [zigzag, unzigzag, h1, h2]

theorem zigzag_unzigzag (n : Nat) : zigzag (unzigzag n) = n := by
  unfold unzigzag
  split <;> simp only [zigzag] <;> omega

@[simp] theorem getInt_putInt (v : Int) (r : List Byte) : getInt (putInt v ++ r) = .ok (v, r) := by
  simp [getInt, putInt]

/-- Fuel beyond the natural itself changes nothing. -/
theorem putNatFuel_eq {f g n : Nat} (hf : n ≤ f) (hg : n ≤ g) : putNatFuel f n = putNatFuel g n := by
  induction f generalizing g n with
  | zero =>
    obtain rfl : n = 0 := by omega
    cases g <;> rfl
  | succ f ih =>
    cases g with
    | zero =>
      obtain rfl : n = 0 := by omega
      rfl
    | succ g =>
      simp only [putNatFuel]
      split
      · rfl
      · rw [ih (g := g) (by omega) (by omega)]

/-- A natural below 128 is one byte. -/
theorem putNat_small {n : Nat} (h : n < 128) : putNat n = [BitVec.ofNat 8 n] := by
  cases n <;> simp_all [putNat, putNatFuel]

/-- A natural from 128 on is its low group, then the rest. -/
theorem putNat_large {n : Nat} (h : 128 ≤ n) : putNat n = BitVec.ofNat 8 (128 + n % 128) :: putNat (n / 128) := by
  obtain ⟨m, rfl⟩ : ∃ m, n = m + 1 := ⟨n - 1, by omega⟩
  rw [putNat, putNatFuel, if_neg (by omega), putNat, putNatFuel_eq (by omega) (Nat.le_refl _)]

/-- What `getNat` reads is what `putNat` writes: no natural has two spellings. -/
theorem putNat_of_getNat {s : List Byte} {n : Nat} {r : List Byte} (h : getNat s = .ok (n, r)) : s = putNat n ++ r := by
  induction s generalizing n r with
  | nil => cases h
  | cons b rest ih =>
    unfold getNat at h
    split at h
    · cases h
      rw [putNat_small ‹_›]
      simp
    · rcases hr : getNat rest with e | ⟨high, rest'⟩
      · simp [hr] at h
      · simp only [hr] at h
        split at h
        · cases h
        · cases h
          have hb := b.isLt
          rw [putNat_large (by omega), ih hr]
          have h1 : (b.toNat - 128 + 128 * high) / 128 = high := by omega
          have h2 : 128 + (b.toNat - 128 + 128 * high) % 128 = b.toNat := by omega
          rw [h1, h2]
          simp

/-- A select code names its operation, and no other byte does. -/
theorem Select.ofByte_eq_some_iff (b : Byte) (c : Select) : Select.ofByte b = some c ↔ b = c.code := by
  constructor
  · intro h
    have := List.find?_some h
    exact (eq_of_beq this).symm
  · rintro rfl
    cases c <;> rfl

theorem Counter.ofByte_eq_some_iff (b : Byte) (k : Counter) : Counter.ofByte b = some k ↔ b = k.code := by
  constructor
  · intro h
    have := List.find?_some h
    exact (eq_of_beq this).symm
  · rintro rfl
    cases k <;> rfl

/-- No select code is the first byte of the start marker: operations and frames never read alike. -/
theorem Select.code_ne_marker (c : Select) : c.code ≠ Config.marker0 := by
  cases c <;> decide

end Sys2Proof
end

