-- ==== Sys2Proof/Laws/Stream.lean ====
section
/-! SUPPORT. The laws of the stream reassembler: what INGEST, one SCAN_STEP and the two drain loops can do, said once
each, guards included. -/

namespace Sys2Proof.Machine

/-! ### INGEST -/

@[simp] theorem ingest_nil (s : State) : ingest [] s = s := rfl

theorem ingest_of_ne_nil {chunk : List Byte} (h : chunk ≠ []) (s : State) :
    ingest chunk s = (s.append chunk).setReady := by
  simp [ingest, h]

/-- INGEST of a chunk for which there is room. -/
theorem ingest_of_room {chunk : List Byte} {s : State} (h : chunk ≠ []) (hroom : s.rx.length + chunk.length ≤ s.cfg.bufCap) :
    ingest chunk s = { s with rx := s.rx ++ chunk, dataReady := true } := by
  rw [ingest_of_ne_nil h]
  simp [State.append, State.setReady, bufAppend_of_room hroom]

/-! ### FindMarker -/

/-- A marker found stands within the buffer. -/
theorem findMarker_lt {m : Memory} {off : Nat} (h : findMarker m = some off) : off + 1 < m.length := by
  induction m using findMarker.induct generalizing off with
  | case1 => simp [findMarker] at h
  | case2 => simp [findMarker] at h
  | case3 a b rest hc => simp [findMarker, hc] at h; subst h; simp
  | case4 a b rest hc ih =>
    rw [findMarker, if_neg hc, Option.map_eq_some_iff] at h
    obtain ⟨off', h', rfl⟩ := h
    have := ih h'
    simp only [List.length_cons] at this ⊢
    omega

/-- The marker stands at offset 0 exactly when the buffer begins with it. -/
theorem findMarker_zero_iff (m : Memory) :
    findMarker m = some 0 ↔ ∃ rest, m = Config.marker0 :: Config.marker1 :: rest := by
  match m with
  | [] => simp [findMarker]
  | [_] => simp [findMarker]
  | a :: b :: rest =>
    by_cases h : a = Config.marker0 ∧ b = Config.marker1
    · simp [findMarker, h]
    · simp [findMarker, h]

/-! ### SCAN_STEP -/

/-- The bytes before the checksum that the scan checks, and the checksum it compares with (step 6 of R143). -/
theorem scanCandidate_cases {s : State} {r : ScanResult} {s' : State} (h : scanCandidate s = (r, s')) :
    (r = .wait ∧ s' = s ∧
      (s.rxLen < 14 ∨
        (14 ≤ s.rxLen ∧ byteAt s.rx 2 = Config.version ∧ 14 + (be16 s.rx 10).toNat ≤ s.cfg.bufCap ∧
          s.rxLen < 14 + (be16 s.rx 10).toNat))) ∨
    (r = .discard .version 1 ∧ s' = s.countUnsupported.discard 1 ∧ 14 ≤ s.rxLen ∧ byteAt s.rx 2 ≠ Config.version) ∨
    (r = .discard .length 1 ∧ s' = s.countLenErr.discard 1 ∧ 14 ≤ s.rxLen ∧ byteAt s.rx 2 = Config.version ∧
      s.cfg.bufCap < 14 + (be16 s.rx 10).toNat) ∨
    (r = .discard .crc 1 ∧ s' = s.countCrcErr.discard 1 ∧ byteAt s.rx 2 = Config.version ∧
      14 + (be16 s.rx 10).toNat ≤ s.cfg.bufCap ∧ 14 + (be16 s.rx 10).toNat ≤ s.rxLen ∧
      crc16 (slice s.rx 2 (12 + (be16 s.rx 10).toNat)) ≠ be16 s.rx (12 + (be16 s.rx 10).toNat)) ∨
    (r = .frame (parseFrame (slice s.rx 0 (14 + (be16 s.rx 10).toNat))) ∧
      s' = (s.discard (14 + (be16 s.rx 10).toNat)).countOk ∧ byteAt s.rx 2 = Config.version ∧
      14 + (be16 s.rx 10).toNat ≤ s.cfg.bufCap ∧ 14 + (be16 s.rx 10).toNat ≤ s.rxLen ∧
      crc16 (slice s.rx 2 (12 + (be16 s.rx 10).toNat)) = be16 s.rx (12 + (be16 s.rx 10).toNat)) := by
  simp only [scanCandidate, memRead_two, Config.minFrameLen, ne_eq, ← BitVec.toNat_eq] at h
  split at h
  · left; simp_all
  split at h
  · right; left; simp_all
  split at h
  · right; right; left; simp_all
  split at h
  · left; simp_all
  split at h
  · right; right; right; left; simp_all
  · right; right; right; right; simp_all

/-- With no marker in the buffer: WAIT with nothing to discard, or all but a trailing `AA` discarded. -/
theorem scanNoMarker_cases {s : State} {r : ScanResult} {s' : State} (h : scanNoMarker s = (r, s')) :
    (r = .wait ∧ s' = s ∧ (s.rx = [] ∨ s.rx = [Config.marker0])) ∨
    (∃ n, r = .discard .noise n ∧ s' = s.discard n ∧ 1 ≤ n ∧ n = s.rxLen ∧ byteAt s.rx (s.rxLen - 1) ≠ Config.marker0) ∨
    (∃ n, r = .discard .noise n ∧ s' = s.discard n ∧ 1 ≤ n ∧ n + 1 = s.rxLen ∧
      byteAt s.rx (s.rxLen - 1) = Config.marker0) := by
  unfold scanNoMarker at h
  by_cases hk : 1 ≤ s.rxLen ∧ byteAt s.rx (s.rxLen - 1) = Config.marker0
  · simp only [hk, and_self, if_true] at h
    split at h
    · left
      have h1 : s.rx.length = 1 := by have := hk.1; simp only [State.rxLen] at *; omega
      obtain ⟨b, hb⟩ := List.length_eq_one_iff.mp h1
      have h2 := hk.2
      simp only [State.rxLen, hb] at h2
      simp_all
    · right; right
      obtain ⟨rfl, rfl⟩ := Prod.mk.inj h
      exact ⟨s.rxLen - 1, rfl, rfl, by omega, by omega, hk.2⟩
  · simp only [hk, if_false, Nat.sub_zero] at h
    split at h
    · left
      obtain ⟨rfl, rfl⟩ := Prod.mk.inj h
      exact ⟨rfl, rfl, .inl (List.eq_nil_of_length_eq_zero (by simpa [State.rxLen] using ‹s.rxLen = 0›))⟩
    · right; left
      obtain ⟨rfl, rfl⟩ := Prod.mk.inj h
      exact ⟨s.rxLen, rfl, rfl, by omega, rfl, fun hb => hk ⟨by omega, hb⟩⟩

/-- The shape of every SCAN_STEP (R143, R183): WAIT changes nothing; a discard removes 1 to `rx_len` bytes from the
front and touches at most one counter; a frame is at least 14 bytes. -/
theorem scanStep_shape {s : State} {r : ScanResult} {s' : State} (h : scanStep s = (r, s')) :
    (r = .wait ∧ s' = s) ∨
    (∃ n, r = .discard .noise n ∧ 1 ≤ n ∧ n ≤ s.rxLen ∧ s' = s.discard n) ∨
    (r = .discard .version 1 ∧ 14 ≤ s.rxLen ∧ s' = s.countUnsupported.discard 1) ∨
    (r = .discard .length 1 ∧ 14 ≤ s.rxLen ∧ s' = s.countLenErr.discard 1) ∨
    (r = .discard .crc 1 ∧ 14 ≤ s.rxLen ∧ s' = s.countCrcErr.discard 1) ∨
    (∃ f n, r = .frame f ∧ 14 ≤ n ∧ n ≤ s.rxLen ∧ s' = (s.discard n).countOk) := by
  unfold scanStep at h
  split at h
  · rcases scanNoMarker_cases h with ⟨rfl, rfl, -⟩ | ⟨n, rfl, rfl, h1, h2, -⟩ | ⟨n, rfl, rfl, h1, h2, -⟩
    · exact .inl ⟨rfl, rfl⟩
    · exact .inr (.inl ⟨n, rfl, h1, by omega, rfl⟩)
    · exact .inr (.inl ⟨n, rfl, h1, by omega, rfl⟩)
  · rename_i off hoff
    split at h
    · obtain ⟨rfl, rfl⟩ := Prod.mk.inj h
      have := findMarker_lt hoff
      exact .inr (.inl ⟨off, rfl, by omega, by simp only [State.rxLen]; omega, rfl⟩)
    · rcases scanCandidate_cases h with ⟨rfl, rfl, -⟩ | ⟨rfl, rfl, hl, -⟩ | ⟨rfl, rfl, hl, -⟩ | ⟨rfl, rfl, -, -, hl, -⟩ |
        ⟨rfl, rfl, -, -, hl, -⟩
      · exact .inl ⟨rfl, rfl⟩
      · exact .inr (.inr (.inl ⟨rfl, hl, rfl⟩))
      · exact .inr (.inr (.inr (.inl ⟨rfl, hl, rfl⟩)))
      · exact .inr (.inr (.inr (.inr (.inl ⟨rfl, by omega, rfl⟩))))
      · exact .inr (.inr (.inr (.inr (.inr ⟨_, _, rfl, by omega, hl, rfl⟩))))

/-! ### The drain loops -/

/-- More fuel than the buffer has bytes makes no difference: DRAIN_NEXT's loop ends before its fuel does. -/
theorem drainNextFuel_eq {n k : Nat} {s : State} (hn : s.rxLen < n) (hk : s.rxLen < k) :
    drainNextFuel n s = drainNextFuel k s := by
  induction n generalizing k s with
  | zero => omega
  | succ n ih =>
    obtain ⟨k, rfl⟩ : ∃ j, k = j + 1 := ⟨k - 1, by omega⟩
    simp only [drainNextFuel]
    rcases hs : scanStep s with ⟨r, s'⟩
    rcases scanStep_shape hs with ⟨rfl, rfl⟩ | ⟨m, rfl, h1, h2, rfl⟩ | ⟨rfl, h1, rfl⟩ | ⟨rfl, h1, rfl⟩ | ⟨rfl, h1, rfl⟩ |
      ⟨f, m, rfl, h1, h2, rfl⟩
    · rfl
    all_goals first
      | rfl
      | exact ih (by simp only [State.rxLen, State.discard_rx, State.countUnsupported_rx, State.countLenErr_rx,
          State.countCrcErr_rx, bufDiscard, List.length_drop] at *; omega)
          (by simp only [State.rxLen, State.discard_rx, State.countUnsupported_rx, State.countLenErr_rx,
          State.countCrcErr_rx, bufDiscard, List.length_drop] at *; omega)

/-- What every SCAN_STEP keeps, DRAIN_NEXT keeps. -/
theorem drainNext_induct {P : State → Prop} (step : ∀ s r s', P s → scanStep s = (r, s') → P s') {s : State} (h : P s) :
    P (drainNext s).2 := by
  suffices H : ∀ n s, P s → P (drainNextFuel n s).2 from H _ s h
  intro n
  induction n with
  | zero => intro s h; exact h
  | succ n ih =>
    intro s h
    simp only [drainNextFuel]
    rcases hs : scanStep s with ⟨_ | _ | _, s'⟩
    · exact step _ _ _ h hs
    · exact ih _ (step _ _ _ h hs)
    · exact step _ _ _ h hs

/-- What every SCAN_STEP keeps, DRAIN keeps. -/
theorem drain_induct {P : State → Prop} (step : ∀ s r s', P s → scanStep s = (r, s') → P s') {s : State} (h : P s) :
    P (drain s).2 := by
  suffices H : ∀ n s, P s → P (drainFuel n s).2 from H _ s h
  intro n
  induction n with
  | zero => intro s h; exact h
  | succ n ih =>
    intro s h
    have h' := drainNext_induct step h
    simp only [drainFuel]
    rcases hd : drainNext s with ⟨_ | f, s'⟩
    · simpa [hd] using h'
    · exact ih _ (by simpa [hd] using h')

end Sys2Proof.Machine
end

