-- ==== Sys2Proof/Laws/Exec.lean ====
section
/-! SUPPORT. What one operation can do to a state, said once: exec is a composition of a few updates, and what each of
them keeps, exec keeps. -/

namespace Sys2Proof.Machine

/-- Every instruction answers a next state (R180). -/
theorem exec_isNext (i : Instr) (s : State) : ∃ t, exec i s = .next t := by
  cases i <;> exact ⟨_, rfl⟩

/-- A property kept by each update that an operation is made of is kept by every operation. -/
theorem exec_induct {P : State → Prop} (handBack : ∀ s r, P s → P (s.handBack r))
    (ingest : ∀ s chunk, P s → P (ingest chunk s)) (scan : ∀ s r s', P s → scanStep s = (r, s') → P s')
    (clearReady : ∀ s, P s → P s.clearReady) (clearCounters : ∀ s, P s → P s.clearCounters)
    (crc : ∀ s c, P s → P { s with crcAcc := c })
    (reset : ∀ s, P s → P { State.construct s.cfg with requests := s.requests })
    {i : Instr} {s t : State} (h : P s) (ht : exec i s = .next t) : P t := by
  have frame : ∀ bytes, receiveFrame bytes s = .next t → P t := by
    rintro bytes hb
    cases hb
    exact handBack _ _ (drain_induct scan (ingest _ _ h))
  cases i with
  | command q t p c => exact frame _ ht
  | heartbeat q t p c => exact frame _ ht
  | heartbeatAck q t p c => exact frame _ ht
  | reserved20 q t p c => exact frame _ ht
  | reserved40 q t p c => exact frame _ ht
  | unsupportedId m q t p c => exact frame _ ht
  | reset => cases ht; exact handBack _ _ (reset s h)
  | statsRead k => cases ht; exact handBack _ _ h
  | statsClear => cases ht; exact handBack _ _ (clearCounters s h)
  | crcInit => cases ht; exact handBack _ _ (crc s _ h)
  | crcByte b => cases ht; exact handBack _ _ (crc s _ h)
  | crcRead => cases ht; exact handBack _ _ h
  | crcBlock bytes => cases ht; exact handBack _ _ h
  | encodeFrame m q t p => cases ht; exact handBack _ _ h
  | decodeFrame bytes => cases ht; exact handBack _ _ h
  | packCmd v => cases ht; exact handBack _ _ h
  | unpackCmd p => cases ht; exact handBack _ _ h
  | ingest chunk => cases ht; exact handBack _ _ (ingest s chunk h)
  | scanStep => cases ht; exact handBack _ _ (scan s _ _ h rfl)
  | drainNext => cases ht; exact handBack _ _ (drainNext_induct scan h)
  | drain => cases ht; exact handBack _ _ (drain_induct scan h)
  | readyClear => cases ht; exact handBack _ _ (clearReady s h)

/-! ### The request port -/

/-- The next operation issued is performed whole, its bytes taken from the port. -/
theorem step_of_decode {s : State} {i : Instr} {rest : List Byte} (hne : s.requests ≠ [])
    (h : decode s.requests = .ok (i, rest)) : step s = exec i { s with requests := rest } := by
  simp [step, hne, h]

/-- What a step can do: nothing with an empty port, one whole operation, or a refusal by name. -/
theorem step_cases (s : State) :
    (s.requests = [] ∧ step s = .next s) ∨
    (∃ i rest, decode s.requests = .ok (i, rest) ∧ step s = exec i { s with requests := rest }) ∨
    (∃ why, decode s.requests = .error why ∧ step s = .refused (.notAnOperation why)) := by
  by_cases hne : s.requests = []
  · exact .inl ⟨hne, by simp [step, hne]⟩
  · rcases hd : decode s.requests with why | ⟨i, rest⟩
    · exact .inr (.inr ⟨why, rfl, by simp [step, hne, hd]⟩)
    · exact .inr (.inl ⟨i, rest, rfl, step_of_decode hne hd⟩)

end Sys2Proof.Machine
end

