-- ==== Sys2Proof/Laws/Handshake.lean ====
section
/-! SUPPORT. The laws of the handshake: one unfolding per event, for the duties of R204. -/

namespace Sys2Proof.Machine

@[simp] theorem keepsHandshake_nil (h : Handshake) (s : State) : keepsHandshake h [] s = true := rfl

@[simp] theorem keepsHandshake_look (h : Handshake) (es : List Event) (s : State) :
    keepsHandshake h (.look :: es) s = keepsHandshake { h with seen := h.seen || s.dataReady } es s := rfl

@[simp] theorem keepsHandshake_handOn (h : Handshake) (es : List Event) (s : State) :
    keepsHandshake h (.handOn :: es) s = keepsHandshake { h with pending := 0 } es s := rfl

/-- An operation is in order when it is allowed here and the rest is in order after it. -/
theorem keepsHandshake_perform {i : Instr} {s t : State} (ht : exec i s = .next t) (h : Handshake) (es : List Event) :
    keepsHandshake h (.perform i :: es) s = (h.allows i && keepsHandshake (h.after t.returned i) es t) := by
  simp only [keepsHandshake, ht]

/-- A READY_CLEAR is in order exactly after a drain operation of the round, every frame handed on (R204). -/
theorem allows_readyClear_iff (h : Handshake) : h.allows .readyClear = true ↔ h.drained = true ∧ h.pending = 0 := by
  simp [Handshake.allows, mayClear]

end Sys2Proof.Machine
end

