-- ==== Sys2Proof/Laws/PerInstr.lean ====
section
/-! SUPPORT. Statements about every instruction, one lemma per constructor. -/

namespace Sys2Proof.Laws.EncodingFitsRow

/-- The encoding of a well-formed instruction matches that instruction's row of the opcode table. -/
def Statement (i : Instr) : Prop := i.wf = true → (rowOf i).fits (encode i) = true

/-- The first four bytes of a wire frame. -/
theorem wire_take (id : Byte) (q : U16) (t : U32) (p : List Byte) (c : U16) :
    (wireBytes id q t p c).take 4 = [Config.marker0, Config.marker1, Config.version, id] := by
  simp [wireBytes_eq]

/-- A frame fits a row of width 32 when its four leading bytes do. -/
theorem frame_fits {id : Byte} {mask pattern : Nat} {name : String} (q : U16) (t : U32) (p : List Byte) (c : U16)
    (h : (beNat [Config.marker0, Config.marker1, Config.version, id] &&& mask == pattern) = true) :
    OpcodeRow.fits ⟨name, 32, mask, pattern⟩ (wireBytes id q t p c) = true := by
  simp only [OpcodeRow.fits, show 32 / 8 = 4 from rfl, wire_take, h, Bool.and_true, decide_eq_true_eq, length_wireBytes]
  omega

/-- An operation fits its row when its select code is the row's pattern. -/
theorem op_fits {code : Byte} {name : String} {pattern : Nat} (s : List Byte) (h : (code.toNat &&& 0xFF == pattern) = true) :
    OpcodeRow.fits ⟨name, 8, 0xFF, pattern⟩ (code :: s) = true := by
  simpa [OpcodeRow.fits, beNat] using h

/-- Every identifier fits the catch-all row's mask. -/
theorem anyId_fits : ∀ m : Byte,
    (beNat [Config.marker0, Config.marker1, Config.version, m] &&& 0xFFFFFF00 == 0xAA550100) = true := by
  decide +kernel

theorem command (q : U16) (t : U32) (p : List Byte) (c : U16) : Statement (.command q t p c) :=
  fun _ => frame_fits q t p c (by decide)
theorem heartbeat (q : U16) (t : U32) (p : List Byte) (c : U16) : Statement (.heartbeat q t p c) :=
  fun _ => frame_fits q t p c (by decide)
theorem heartbeatAck (q : U16) (t : U32) (p : List Byte) (c : U16) : Statement (.heartbeatAck q t p c) :=
  fun _ => frame_fits q t p c (by decide)
theorem reserved20 (q : U16) (t : U32) (p : List Byte) (c : U16) : Statement (.reserved20 q t p c) :=
  fun _ => frame_fits q t p c (by decide)
theorem reserved40 (q : U16) (t : U32) (p : List Byte) (c : U16) : Statement (.reserved40 q t p c) :=
  fun _ => frame_fits q t p c (by decide)
theorem unsupportedId (m : Byte) (q : U16) (t : U32) (p : List Byte) (c : U16) : Statement (.unsupportedId m q t p c) :=
  fun _ => frame_fits q t p c (anyId_fits m)
theorem reset : Statement .reset := fun _ => rfl
theorem statsRead (k : Counter) : Statement (.statsRead k) := fun _ => by cases k <;> rfl
theorem statsClear : Statement .statsClear := fun _ => rfl
theorem crcInit : Statement .crcInit := fun _ => rfl
theorem crcByte (b : Byte) : Statement (.crcByte b) := fun _ => op_fits _ (by decide)
theorem crcRead : Statement .crcRead := fun _ => rfl
theorem crcBlock (s : List Byte) : Statement (.crcBlock s) := fun _ => op_fits _ (by decide)
theorem encodeFrame (m : Byte) (q : U16) (t : U32) (p : List Byte) : Statement (.encodeFrame m q t p) := fun _ => op_fits _ (by decide)
theorem decodeFrame (s : List Byte) : Statement (.decodeFrame s) := fun _ => op_fits _ (by decide)
theorem packCmd (v : Channels Int) : Statement (.packCmd v) := fun _ => op_fits _ (by decide)
theorem unpackCmd (p : List Byte) : Statement (.unpackCmd p) := fun _ => op_fits _ (by decide)
theorem ingest (s : List Byte) : Statement (.ingest s) := fun _ => op_fits _ (by decide)
theorem scanStep : Statement .scanStep := fun _ => rfl
theorem drainNext : Statement .drainNext := fun _ => rfl
theorem drain : Statement .drain := fun _ => rfl
theorem readyClear : Statement .readyClear := fun _ => rfl

end Sys2Proof.Laws.EncodingFitsRow
end

