-- ==== Sys2Proof/Tests/Slice0.lean ====
section
/-! SUPPORT. The model's own tests: ill-formed terms that WellFormed refuses; words written out from the spec's encodings;
at most two small tests per instruction, their expected values from spec/95_test_vectors.md (named V, S, Y there); and, for
every obligation with hypotheses, a state and operands that meet them, clause by clause. -/

open Sys2Proof Sys2Proof.Machine

namespace Sys2Proof.Tests

set_option Elab.async false

/-! ### Helpers -/

/-- The outcome is this next state. -/
def nextIs (o : Host.Outcome State Fault Refusal) (t : State) : Bool :=
  match o with
  | .next u => decide (u = t)
  | .fault _ => false
  | .refused _ => false

/-- The outcome is a next state with this result. -/
def returns (o : Host.Outcome State Fault Refusal) (r : Returned) : Bool :=
  match o with
  | .next u => decide (u.returned = r)
  | .fault _ => false
  | .refused _ => false

/-- The decoder's answer is this instruction, all bytes used. -/
def reads (bytes : List Byte) (i : Instr) : Bool :=
  match decode bytes with
  | .ok (j, rest) => decide (j = i ∧ rest = [])
  | .error _ => false

/-- The decoder's answer is this rejection. -/
def rejects (bytes : List Byte) (why : Reject) : Bool :=
  match decode bytes with
  | .ok _ => false
  | .error e => decide (e = why)

/-- A state after reset with these bytes buffered and this capacity. -/
def buffered (cap : Nat) (rx : List Byte) : State := { State.reset with cfg := ⟨cap, 32⟩, rx := rx }

/-- Frame HB1 of 95_test_vectors.md. -/
def hb1 : List Byte :=
  [0xAA#8, 0x55#8, 0x01#8, 0x10#8, 0x00#8, 0x01#8, 0x00#8, 0x00#8, 0x00#8, 0x00#8, 0x00#8, 0x00#8, 0x65#8, 0xE3#8]

/-- Frame ACK1 of 95_test_vectors.md. -/
def ack1 : List Byte :=
  [0xAA#8, 0x55#8, 0x01#8, 0x11#8, 0x00#8, 0x01#8, 0x00#8, 0x00#8, 0x00#8, 0x00#8, 0x00#8, 0x00#8, 0x8E#8, 0xC0#8]

/-- The payload of CMDN: eight neutral channels. -/
def neutral : List Byte := (List.replicate 8 [0x13#8, 0x88#8]).flatten

/-- Frame CMDN of 95_test_vectors.md. -/
def cmdn : List Byte :=
  [0xAA#8, 0x55#8, 0x01#8, 0x01#8, 0x12#8, 0x34#8, 0x00#8, 0x00#8, 0x03#8, 0xE8#8, 0x00#8, 0x10#8] ++ neutral ++
    [0x4A#8, 0xD9#8]

/-- The Frame record of HB1 (V35). -/
def hb1Frame : Frame := ⟨0x01#8, 0x10#8, .heartbeat, 1#16, 0#32, 0#16, [], 0x65E3#16⟩

/-- The Frame record of ACK1. -/
def ack1Frame : Frame := ⟨0x01#8, 0x11#8, .heartbeatAck, 1#16, 0#32, 0#16, [], 0x8EC0#16⟩

/-- The Frame record of CMDN (V36). -/
def cmdnFrame : Frame := ⟨0x01#8, 0x01#8, .command, 0x1234#16, 1000#32, 16#16, neutral, 0x4AD9#16⟩

/-! ### WellFormed: the check refuses -/

/-- The length check on a payload of zeros, its length not counted out. -/
theorem payloadFits_zeros (n : Nat) : payloadFits (List.replicate n 0) = decide (n < 2 ^ 16) := by
  simp only [payloadFits, List.length_replicate]

/-- R66: 65536 payload bytes do not fit the 16-bit length field, 65535 do; on every frame row. -/
theorem test_wf_payload_length :
    (Instr.command 0 0 (List.replicate 65536 0) 0).wf = false ∧ (Instr.heartbeat 0 0 (List.replicate 65536 0) 0).wf = false ∧
    (Instr.heartbeatAck 0 0 (List.replicate 65536 0) 0).wf = false ∧
    (Instr.reserved20 0 0 (List.replicate 65536 0) 0).wf = false ∧
    (Instr.reserved40 0 0 (List.replicate 65536 0) 0).wf = false ∧
    (Instr.unsupportedId 0x77 0 0 (List.replicate 65536 0) 0).wf = false ∧
    (Instr.command 0 0 (List.replicate 65535 0) 0).wf = true := by
  simp only [Instr.wf, payloadFits_zeros]
  decide

/-- R63: the catch-all row does not stand for an assigned or reserved identifier. -/
theorem test_wf_assigned_id :
    assignedIds.all (fun id => (Instr.unsupportedId id 0 0 [] 0).wf == false) = true ∧
    (Instr.unsupportedId 0x00 0 0 [] 0).wf = true ∧ (Instr.unsupportedId 0xFF 0 0 [] 0).wf = true := by
  decide

/-! ### Decoding: words written out from R60, R63 and R74 -/

theorem test_decode_command : reads cmdn (.command 0x1234 1000 neutral 0x4AD9) = true := by decide +kernel
theorem test_decode_heartbeat : reads hb1 (.heartbeat 1 0 [] 0x65E3) = true := by decide +kernel
theorem test_decode_heartbeatAck : reads ack1 (.heartbeatAck 1 0 [] 0x8EC0) = true := by decide +kernel

/-- V25. -/
theorem test_decode_reserved20 : reads
    [0xAA, 0x55, 0x01, 0x20, 0x00, 0x07, 0x00, 0x00, 0x00, 0x05, 0x00, 0x00, 0xDB, 0x34]
    (.reserved20 7 5 [] 0xDB34) = true := by decide +kernel

/-- V26. -/
theorem test_decode_reserved40 : reads
    [0xAA, 0x55, 0x01, 0x40, 0x00, 0x07, 0x00, 0x00, 0x00, 0x05, 0x00, 0x03, 0x01, 0x02, 0x03, 0x15, 0x39]
    (.reserved40 7 5 [1, 2, 3] 0x1539) = true := by decide +kernel

/-- V27, and V22's field maxima on an unassigned identifier. -/
theorem test_decode_unsupportedId :
    reads [0xAA, 0x55, 0x01, 0x77, 0x00, 0x09, 0x00, 0x00, 0x00, 0x09, 0x00, 0x00, 0x21, 0x51]
      (.unsupportedId 0x77 9 9 [] 0x2151) = true ∧
    reads [0xAA, 0x55, 0x01, 0xFF, 0x80, 0x01, 0x80, 0x02, 0x40, 0x03, 0x00, 0x00, 0x12, 0x34]
      (.unsupportedId 0xFF 0x8001 0x80024003 [] 0x1234) = true := by decide +kernel

theorem test_decode_reset : reads [0x00] .reset = true := by decide
theorem test_decode_statsRead : reads [0x01, 0x00] (.statsRead .ok) = true ∧ reads [0x01, 0x01] (.statsRead .crcErr) = true ∧
    reads [0x01, 0x02] (.statsRead .lenErr) = true ∧ reads [0x01, 0x03] (.statsRead .unsupported) = true := by decide
theorem test_decode_statsClear : reads [0x02] .statsClear = true := by decide
theorem test_decode_crcInit : reads [0x10] .crcInit = true := by decide
theorem test_decode_crcByte : reads [0x11, 0x31] (.crcByte 0x31) = true := by decide
theorem test_decode_crcRead : reads [0x12] .crcRead = true := by decide
theorem test_decode_crcBlock : reads [0x13, 0x02, 0xAB, 0xCD] (.crcBlock [0xAB, 0xCD]) = true := by decide +kernel
theorem test_decode_encodeFrame : reads [0x20, 0x10, 0x12, 0x34, 0x01, 0x02, 0x03, 0x04, 0x01, 0xFF]
    (.encodeFrame 0x10 0x1234 0x01020304 [0xFF]) = true := by decide +kernel
theorem test_decode_decodeFrame : reads [0x21, 0x01, 0xAA] (.decodeFrame [0xAA]) = true := by decide +kernel
theorem test_decode_packCmd : reads [0x22, 0x00, 0x02, 0x01, 0x90, 0x4E, 0x04, 0x03, 0x06, 0x08]
    (.packCmd ⟨0, 1, -1, 5000, 2, -2, 3, 4⟩) = true := by decide +kernel
theorem test_decode_unpackCmd : reads [0x23, 0x00] (.unpackCmd []) = true := by decide +kernel
theorem test_decode_ingest : reads [0x30, 0x03, 0x00, 0xAA, 0x13] (.ingest [0x00, 0xAA, 0x13]) = true := by decide +kernel
theorem test_decode_scanStep : reads [0x31] .scanStep = true := by decide
theorem test_decode_drainNext : reads [0x32] .drainNext = true := by decide
theorem test_decode_drain : reads [0x33] .drain = true := by decide
theorem test_decode_readyClear : reads [0x34] .readyClear = true := by decide

/-- Rejections by name: no bytes, an unassigned select code, a wrong marker, a wrong version (the opcode table's last row
says that neither is a frame), an index above 3 (R170), a frame that ends early, an overlong length. -/
theorem test_decode_rejects :
    rejects [] .empty = true ∧ rejects [0x03] (.unassignedSelect 0x03) = true ∧ rejects [0xAA, 0x56] (.badMarker 0x56) = true ∧
    rejects [0xAA, 0x55, 0x02] (.badVersion 0x02) = true ∧ rejects [0x01, 0x04] (.noSuchCounter 0x04) = true ∧
    rejects (hb1.take 13) .truncated = true ∧ rejects [0x30, 0x80, 0x00] .overlongNat = true := by decide +kernel

/-- Each row's word, bit for bit as the opcode table gives it, decodes to that row's instruction. -/
theorem test_table_words :
    (frameRows ++ opRows).all (fun r => (decodeTableWord r.width r.pattern).map rowOf == some r) = true := by decide +kernel

/-- A row's word at the request port runs as the first instruction after reset. -/
theorem test_withFetchWord : (frameRows ++ opRows).all (fun r =>
    match step (State.reset.withFetchWord r.width r.pattern) with
    | .next t => t.requests.all (· == 0)
    | .fault _ => false
    | .refused _ => false) = true := by decide +kernel

/-! ### Meanings -/

theorem test_exec_command : nextIs (exec (.command 0x1234 1000 neutral 0x4AD9) State.reset)
    { State.reset with dataReady := true, statOk := 1, returned := .frames [cmdnFrame] } = true := by decide +kernel

/-- S2: a frame that completes what an empty buffer did not hold. -/
theorem test_exec_heartbeat : nextIs (exec (.heartbeat 1 0 [] 0x65E3) State.reset)
    { State.reset with dataReady := true, statOk := 1, returned := .frames [hb1Frame] } = true := by decide +kernel

/-- S3: HB1 with one bit flipped, then ACK1: counted once as a CRC error, the next frame survives. -/
theorem test_exec_heartbeat_bad_crc : nextIs (exec (.heartbeat 3 0 [] 0x65E3) State.reset)
    { State.reset with dataReady := true, statCrcErr := 1, returned := .frames [] } = true := by decide +kernel

theorem test_exec_heartbeatAck : nextIs (exec (.heartbeatAck 1 0 [] 0x8EC0) State.reset)
    { State.reset with dataReady := true, statOk := 1, returned := .frames [ack1Frame] } = true := by decide +kernel

/-- S7: two frames, one drain, in order. -/
theorem test_exec_heartbeatAck_after_hb1 : nextIs (exec (.heartbeatAck 1 0 [] 0x8EC0) (buffered 512 hb1))
    { State.reset with dataReady := true, statOk := 2, returned := .frames [hb1Frame, ack1Frame] } = true := by
  decide +kernel

/-- V25's frame. -/
theorem test_exec_reserved20 : nextIs (exec (.reserved20 7 5 [] 0xDB34) State.reset)
    { State.reset with
      dataReady := true, statOk := 1
      returned := .frames [⟨1, 0x20, .unsupported 0x20, 7, 5, 0, [], 0xDB34⟩] } = true := by decide +kernel

/-- S13. -/
theorem test_exec_reserved40 : nextIs (exec (.reserved40 7 5 [1, 2, 3] 0x1539) State.reset)
    { State.reset with
      dataReady := true, statOk := 1
      returned := .frames [⟨1, 0x40, .unsupported 0x40, 7, 5, 3, [1, 2, 3], 0x1539⟩] } = true := by decide +kernel

/-- S11: an unassigned identifier counts in `stat_ok`, not in `stat_unsupported`. -/
theorem test_exec_unsupportedId : nextIs (exec (.unsupportedId 0x77 9 9 [] 0x2151) State.reset)
    { State.reset with
      dataReady := true, statOk := 1
      returned := .frames [⟨1, 0x77, .unsupported 0x77, 9, 9, 0, [], 0x2151⟩] } = true := by decide +kernel

/-- Y4's state before its RESET. -/
theorem test_exec_reset : nextIs (exec .reset
    { State.reset with rx := [0xAA, 0x55, 0x01], dataReady := true, crcAcc := 0xC782, statOk := 4 }) State.reset = true := by
  decide

/-- Y1's order of the counters. -/
theorem test_exec_statsRead : ([Counter.ok, .crcErr, .lenErr, .unsupported].zip [1, 2, 3, 4]).all (fun p =>
    returns (exec (.statsRead p.1) { State.reset with statOk := 1, statCrcErr := 2, statLenErr := 3, statUnsupported := 4 })
      (.count p.2)) = true := by decide

/-- Y3. -/
theorem test_exec_statsClear : nextIs (exec .statsClear
    { State.reset with rx := [1], dataReady := true, crcAcc := 5, statOk := 1, statCrcErr := 1, statLenErr := 1, statUnsupported := 1 })
    { State.reset with rx := [1], dataReady := true, crcAcc := 5 } = true := by decide

/-- V16. -/
theorem test_exec_crcInit : nextIs (exec .crcInit { State.reset with crcAcc := 0x29B1 }) State.reset = true := by decide

/-- V11 and V19. -/
theorem test_exec_crcByte :
    nextIs (exec (.crcByte 0x31) State.reset) { State.reset with crcAcc := 0xC782 } = true ∧
    nextIs (exec (.crcByte 0x00) { State.reset with crcAcc := 0x8000 }) { State.reset with crcAcc := 0x9188 } = true := by
  decide +kernel

/-- V18. -/
theorem test_exec_crcRead : nextIs (exec .crcRead { State.reset with crcAcc := 0x1234 })
    { State.reset with crcAcc := 0x1234, returned := .crc 0x1234 } = true := by decide

/-- V1. -/
theorem test_exec_crcBlock : nextIs
    (exec (.crcBlock [0x31, 0x32, 0x33, 0x34, 0x35, 0x36, 0x37, 0x38, 0x39]) { State.reset with crcAcc := 0x1234 })
    { State.reset with crcAcc := 0x1234, returned := .crc 0x29B1 } = true := by decide +kernel

/-- V2, V5, V6, V8. -/
theorem test_exec_crcBlock_corners :
    returns (exec (.crcBlock []) State.reset) (.crc 0xFFFF) = true ∧ returns (exec (.crcBlock [0, 0]) State.reset) (.crc 0x1D0F) = true ∧
    returns (exec (.crcBlock [0xFF, 0xFF]) State.reset) (.crc 0x0000) = true ∧
    returns (exec (.crcBlock [0x80]) State.reset) (.crc 0x7078) = true := by decide +kernel

/-- V24 and V22. -/
theorem test_exec_encodeFrame :
    returns (exec (.encodeFrame 0x01 0x1234 1000 neutral) State.reset) (.encoded (.ok cmdn)) = true ∧
    returns (exec (.encodeFrame 0x10 0xFFFF 0xFFFFFFFF []) State.reset) (.encoded (.ok
      [0xAA, 0x55, 0x01, 0x10, 0xFF, 0xFF, 0xFF, 0xFF, 0xFF, 0xFF, 0x00, 0x00, 0x66, 0x6C])) = true := by decide +kernel

/-- V29. -/
theorem test_exec_encodeFrame_too_long :
    returns (exec (.encodeFrame 0x01 0 0 (List.replicate 17 0)) State.reset) (.encoded .encLen) = true := by decide

/-- V36, V38, V49. -/
theorem test_exec_decodeFrame :
    returns (exec (.decodeFrame cmdn) State.reset) (.decoded (.ok cmdnFrame 30)) = true ∧
    returns (exec (.decodeFrame (hb1 ++ [0xDE, 0xAD])) State.reset) (.decoded (.ok hb1Frame 14)) = true ∧
    returns (exec (.decodeFrame
      [0xAA, 0x55, 0x01, 0x10, 0x00, 0x01, 0x00, 0x00, 0x00, 0x00, 0x00, 0x03, 0x09, 0x09, 0x09, 0x1B, 0x86]) State.reset)
      (.decoded (.ok ⟨1, 0x10, .heartbeat, 1, 0, 3, [9, 9, 9], 0x1B86⟩ 17)) = true := by decide +kernel

/-- V37, V39 to V44: every error of DECODE. -/
theorem test_exec_decodeFrame_errors :
    returns (exec (.decodeFrame cmdn) (buffered 29 [])) (.decoded (.error .badLength)) = true ∧
    returns (exec (.decodeFrame (hb1.take 13)) State.reset) (.decoded (.error .tooShort)) = true ∧
    returns (exec (.decodeFrame (hb1.set 0 0xAB)) State.reset) (.decoded (.error .badMarker)) = true ∧
    returns (exec (.decodeFrame (hb1.set 2 0x02)) State.reset) (.decoded (.error .badVersion)) = true ∧
    returns (exec (.decodeFrame (hb1.set 5 0x03)) State.reset) (.decoded (.error .badCrc)) = true ∧
    returns (exec (.decodeFrame ((hb1.set 10 0xFF).set 11 0xFF)) State.reset) (.decoded (.error .badLength)) = true ∧
    returns (exec (.decodeFrame (cmdn.take 14)) State.reset) (.decoded (.error .incomplete)) = true := by decide +kernel

/-- V30 and V32. -/
theorem test_exec_packCmd :
    returns (exec (.packCmd ⟨0, 10000, 5000, 2500, 7500, 1, 9999, 12000⟩) State.reset) (.packed
      [0x00, 0x00, 0x27, 0x10, 0x13, 0x88, 0x09, 0xC4, 0x1D, 0x4C, 0x00, 0x01, 0x27, 0x0F, 0x27, 0x10]) = true ∧
    returns (exec (.packCmd ⟨-1, -32768, 10001, 65535, 5000, 5000, 5000, 5000⟩) State.reset) (.packed
      [0x00, 0x00, 0x00, 0x00, 0x27, 0x10, 0x27, 0x10, 0x13, 0x88, 0x13, 0x88, 0x13, 0x88, 0x13, 0x88]) = true := by
  decide +kernel

/-- V33 and V34. -/
theorem test_exec_unpackCmd :
    returns (exec (.unpackCmd [0xFF, 0xFF, 0x27, 0x11, 0, 0, 0, 0, 0, 0, 0, 0, 0, 0, 0, 0]) State.reset)
      (.unpacked (.ok ⟨65535, 10001, 0, 0, 0, 0, 0, 0⟩)) = true ∧
    [0, 15, 17].all (fun n => returns (exec (.unpackCmd (List.replicate n 0)) State.reset) (.unpacked .badPayloadLen)) = true := by
  decide +kernel

/-- S6b, scaled: a chunk longer than the buffer keeps its last bytes; S20: appending while the flag is set. -/
theorem test_exec_ingest :
    nextIs (exec (.ingest (List.replicate 40 0x11 ++ hb1)) (buffered 30 [0x22]))
      { buffered 30 (List.replicate 16 0x11 ++ hb1) with dataReady := true } = true ∧
    nextIs (exec (.ingest [0x01, 0x10]) { buffered 512 [0xAA, 0x55] with dataReady := true })
      { buffered 512 [0xAA, 0x55, 0x01, 0x10] with dataReady := true } = true := by decide +kernel

/-- S15: an empty chunk does not set the flag. -/
theorem test_exec_ingest_empty : nextIs (exec (.ingest []) State.reset) State.reset = true := by decide

/-- P1, steps 4 to 6, and S4's first. -/
theorem test_exec_scanStep :
    nextIs (exec .scanStep (buffered 512 ([0x00, 0xAA, 0x13] ++ hb1)))
      { buffered 512 hb1 with returned := .scanned (.discard .noise 3) } = true ∧
    nextIs (exec .scanStep (buffered 512 hb1))
      { buffered 512 [] with statOk := 1, returned := .scanned (.frame hb1Frame) } = true ∧
    nextIs (exec .scanStep (buffered 512 (hb1.set 2 0x02)))
      { buffered 512 ((hb1.set 2 0x02).drop 1) with statUnsupported := 1, returned := .scanned (.discard .version 1) } = true := by
  decide +kernel

/-- S5c and S5d: a total of exactly `BUF_CAP` waits, one more is a length error. -/
theorem test_exec_scanStep_capacity :
    nextIs (exec .scanStep (buffered 512 ((hb1.set 10 0x01).set 11 0xF2)))
      { buffered 512 ((hb1.set 10 0x01).set 11 0xF2) with returned := .scanned .wait } = true ∧
    nextIs (exec .scanStep (buffered 512 ((hb1.set 10 0x01).set 11 0xF3)))
      { buffered 512 (((hb1.set 10 0x01).set 11 0xF3).drop 1) with
        statLenErr := 1, returned := .scanned (.discard .length 1) } = true := by decide +kernel

/-- S18: the second frame waits as bytes; S17: IDLE at rest. -/
theorem test_exec_drainNext :
    nextIs (exec .drainNext (buffered 512 (hb1 ++ ack1)))
      { buffered 512 ack1 with statOk := 1, returned := .next (some hb1Frame) } = true ∧
    nextIs (exec .drainNext State.reset) { State.reset with returned := .next none } = true := by decide +kernel

/-- S3. -/
theorem test_exec_drain : nextIs (exec .drain (buffered 512 (hb1.set 5 0x03 ++ ack1)))
    { buffered 512 [] with statOk := 1, statCrcErr := 1, returned := .frames [ack1Frame] } = true := by decide +kernel

/-- Y5 (saturation) and S9 (the kept trailing `AA`). -/
theorem test_exec_drain_corners :
    nextIs (exec .drain { buffered 512 hb1 with statOk := 0xFFFFFFFF })
      { buffered 512 [] with statOk := 0xFFFFFFFF, returned := .frames [hb1Frame] } = true ∧
    nextIs (exec .drain (buffered 512 [0x01, 0x02, 0x03, 0xAA])) { buffered 512 [0xAA] with returned := .frames [] } = true := by
  decide +kernel

/-- P6, step 4. -/
theorem test_exec_readyClear : nextIs (exec .readyClear { buffered 512 hb1 with dataReady := true }) (buffered 512 hb1) = true := by
  decide +kernel

/-- The whole of a trace (P4, steps 4 to 9), and the hazard of P6. -/
theorem test_safety_terms :
    (scanRun 9 (buffered 512 (hb1.set 5 0x03 ++ ack1))).1 =
      [.discard .crc 1, .discard .noise 13, .frame ack1Frame, .wait] ∧
    (buffered 512 hb1).lostWakeUp = true ∧ (buffered 512 (hb1.take 9)).lostWakeUp = false := by decide +kernel

/-- P6, steps 1 to 4: within the consumer's duties of R204, though the frame is whole when the flag is cleared; P1, steps 2 to
7, with single SCAN_STEPs. -/
theorem test_handshake_keeps :
    keepsHandshake newRound [.perform (.ingest (hb1.take 9)), .look, .perform .drain, .perform (.ingest (hb1.drop 9)),
      .perform .readyClear] State.reset = true ∧
    keepsHandshake newRound [.perform (.ingest ([0x00, 0xAA, 0x13] ++ hb1)), .look, .perform .scanStep, .perform .scanStep,
      .perform .scanStep, .handOn, .perform .readyClear] State.reset = true := by decide +kernel

/-- Against R204: a clear on a partial frame with no drain done, a drain in a new round without a look, a clear before the
frame is handed on. -/
theorem test_handshake_breaks :
    keepsHandshake newRound [.perform (.ingest (hb1.take 9)), .look, .perform .readyClear] State.reset = false ∧
    keepsHandshake newRound [.perform (.ingest hb1), .look, .perform .drain, .handOn, .perform .readyClear, .perform .drain]
      State.reset = false ∧
    keepsHandshake newRound [.perform (.ingest hb1), .look, .perform .drainNext, .perform .readyClear] State.reset = false := by
  decide +kernel

/-! ### Witnesses: states and operands that meet the hypotheses of each obligation

Each theorem names the obligation it is for and meets the hypotheses of each of its clauses, at the edge of their range where
they have one. -/

/-- The absence of a marker, checked at the finitely many offsets that a buffer has. -/
theorem noMarker_of_all {m : List Byte}
    (h : (List.range m.length).all (fun j => decide (m[j]? = some 0xAA#8 → m[j + 1]? ≠ some 0x55#8)) = true) :
    ∀ j, ¬(m[j]? = some 0xAA#8 ∧ m[j + 1]? = some 0x55#8) := by
  intro j
  by_cases hj : j < m.length
  · exact fun hm => of_decide_eq_true (List.all_eq_true.mp h j (List.mem_range.mpr hj)) hm.1 hm.2
  · simp [List.getElem?_eq_none (Nat.le_of_not_lt hj)]

/-- An instruction's next state, for the obligations whose hypothesis is that `exec` answered one. -/
theorem wit_exec_next : exec .drain State.reset = .next { State.reset with returned := .frames [] } ∧
    exec .drainNext State.reset = .next { State.reset with returned := .next none } ∧
    exec .scanStep State.reset = .next { State.reset with returned := .scanned .wait } := ⟨rfl, rfl, rfl⟩

theorem wit_StatsReadReturnsTheIndexedCounter : 3 < (4#8 : Byte).toNat := by decide

theorem wit_ByteSerialCrcOperations :
    exec .crcInit { State.reset with crcAcc := 7 } = .next State.reset := rfl

theorem wit_CrcDetectsOneChangedByte : (0x01#8 : Byte) ≠ 0x03#8 := by decide

theorem wit_EncodeBuildsTheFrame :
    16 < (List.replicate 17 (0 : Byte)).length ∧ (List.replicate 16 (0 : Byte)).length ≤ 16 := by decide

theorem wit_EncodedFrameProperties :
    codecEncode 0x01 0x1234 1000 neutral = .ok cmdn ∧ codecEncode 0x10 1 0 [] = .ok hb1 := by decide +kernel

/-- One witness for each of the seven clauses, in their order; capacity 30. -/
theorem wit_DecodeTakesTheFirstFailingTest :
    (∀ b ∈ [hb1.set 2 0x02, hb1.set 11 17, hb1.set 11 16, hb1.set 5 3, cmdn],
      14 ≤ b.length ∧ byteAt b 0 = 0xAA#8 ∧ byteAt b 1 = 0x55#8) ∧
    (∀ b ∈ [hb1.set 11 17, hb1.set 11 16, hb1.set 5 3, cmdn], byteAt b 2 = 0x01#8) ∧
    ((hb1.take 13).length < 14) ∧
    (14 ≤ (hb1.set 1 0x54).length ∧ ¬(byteAt (hb1.set 1 0x54) 0 = 0xAA#8 ∧ byteAt (hb1.set 1 0x54) 1 = 0x55#8)) ∧
    (byteAt (hb1.set 2 0x02) 0 = 0xAA#8 ∧ byteAt (hb1.set 2 0x02) 1 = 0x55#8 ∧ byteAt (hb1.set 2 0x02) 2 ≠ 0x01#8) ∧
    (byteAt (hb1.set 11 17) 2 = 0x01#8 ∧ 30 < 14 + (be16 (hb1.set 11 17) 10).toNat) ∧
    (14 + (be16 (hb1.set 11 16) 10).toNat ≤ 30 ∧ (hb1.set 11 16).length < 14 + (be16 (hb1.set 11 16) 10).toNat) ∧
    (14 + (be16 (hb1.set 5 3) 10).toNat ≤ 30 ∧ 14 + (be16 (hb1.set 5 3) 10).toNat ≤ (hb1.set 5 3).length ∧
      crc16 (slice (hb1.set 5 3) 2 12) ≠ be16 (hb1.set 5 3) 12) ∧
    (14 + (be16 cmdn 10).toNat ≤ 30 ∧ 14 + (be16 cmdn 10).toNat ≤ cmdn.length ∧ crc16 (slice cmdn 2 28) = be16 cmdn 28) := by
  decide +kernel

theorem wit_DecodeIgnoresSurplusBytes : codecDecode 30 cmdn = .ok cmdnFrame 30 := by decide +kernel

theorem wit_DecodeOfEncodeRoundTrip : neutral.length ≤ 16 ∧ 30 ≤ (buffered 30 []).cfg.bufCap := by decide +kernel

theorem wit_KindOfEveryIdentifier : (0x20#8 : Byte) ≠ 0x01#8 ∧ (0x20#8 : Byte) ≠ 0x10#8 ∧ (0x20#8 : Byte) ≠ 0x11#8 := by decide

theorem wit_UnpackCmdReturnsTheRawValues :
    (List.replicate 15 (0 : Byte)).length ≠ 16 ∧ (List.replicate 17 (0 : Byte)).length ≠ 16 ∧ neutral.length = 16 := by decide

theorem wit_CommandVectorRoundTrip : 30 ≤ (buffered 30 []).cfg.bufCap ∧
    ∀ x ∈ (⟨0, 10000, 5000, 0, 1, 9999, 0, 10000⟩ : Channels Int).toList, 0 ≤ x ∧ x ≤ 10000 := by decide

/-- Every row of the table: a frame with no payload, a full frame, and the frame of the exception (row 5), whose first two
payload bytes are the CRC of the header with length 0. -/
theorem wit_SingleBitCorruptionTable :
    let odd : List Byte := [0x65, 0xE3] ++ List.replicate 14 0
    let flip := fun (f : List Byte) (k j : Nat) => f.set k (byteAt f k ^^^ (1#8 <<< j))
    let len := fun (f : List Byte) => (be16 f 10).toNat
    (codecEncode 0x10 1 0 [] = .ok hb1 ∧ hb1.length = 14) ∧ (codecEncode 0x01 0x1234 1000 neutral = .ok cmdn ∧ cmdn.length = 30) ∧
    (([] : List Byte).length < len (flip hb1 11 5) ∧ 30 < 14 + len (flip hb1 11 5)) ∧
    (([] : List Byte).length < len (flip hb1 11 4) ∧ 14 + len (flip hb1 11 4) ≤ 30) ∧
    (len (flip cmdn 11 4) < neutral.length ∧ crc16 (slice (flip cmdn 11 4) 2 12) ≠ be16 (flip cmdn 11 4) 12) ∧
    (∃ f, codecEncode 0x10 1 0 odd = .ok f ∧ len (flip f 11 4) < odd.length ∧
      crc16 (slice (flip f 11 4) 2 12) = be16 (flip f 11 4) 12 ∧
      ∃ fr, codecDecode 30 (flip f 11 4) = .ok fr 14) := by
  refine ⟨by decide +kernel, by decide +kernel, by decide +kernel, by decide +kernel, by decide +kernel, _,
    codecEncode_of_le (by decide), by decide +kernel, by decide +kernel, hb1Frame, by decide +kernel⟩

theorem wit_BufAppendKeepsTheMostRecentBytes :
    (List.replicate 29 (0 : Byte)).length < 30 ∧ (List.replicate 30 (0 : Byte)) = 0 :: List.replicate 29 0 ∧
    (List.replicate 30 (0 : Byte)).length ≤ 30 ∧ (List.replicate 29 (0 : Byte)).length + [(1 : Byte)].length ≤ 30 ∧
    30 ≤ (List.replicate 30 (0 : Byte)).length := by decide

theorem wit_IngestAppendsAndSetsTheFlag : 0 < (buffered 30 (List.replicate 30 0)).cfg.bufCap ∧
    (buffered 30 (List.replicate 30 0)).rx.length ≤ (buffered 30 (List.replicate 30 0)).cfg.bufCap ∧ hb1 ≠ [] := by decide

theorem wit_LostWakeUpLosesNoBytes : ∃ t u v, performAll [.ingest hb1] State.reset = some t ∧
    performAll [.ingest hb1, .readyClear] State.reset = some u ∧ performAll [.ingest hb1, .drain] State.reset = some v ∧
    v.returned = .frames [hb1Frame] ∧ t.dataReady = true ∧ State.reset.dataReady = false ∧
    ∃ w, exec .drain t = .next w ∧ w.returned ≠ .frames [] :=
  ⟨_, _, _, rfl, rfl, rfl, by decide +kernel, by decide +kernel, rfl, _, rfl, by decide +kernel⟩

/-- Both sides of both equivalences: a second marker after the first, and none. -/
theorem wit_FindMarkerFindsTheFirst :
    findMarker ([0xAA#8] ++ hb1 ++ hb1) = some 1 ∧ findMarker [0x55#8, 0xAA#8] = none := by decide +kernel

theorem wit_ScanWithoutMarkerKeepsATrailingAA :
    (∀ j, ¬(([] : List Byte)[j]? = some 0xAA#8 ∧ ([] : List Byte)[j + 1]? = some 0x55#8)) ∧
    (∀ j, ¬([0xAA#8][j]? = some 0xAA#8 ∧ [0xAA#8][j + 1]? = some 0x55#8)) ∧
    (∀ j, ¬(([0xAA#8] ++ [0xAA#8])[j]? = some 0xAA#8 ∧ ([0xAA#8] ++ [0xAA#8])[j + 1]? = some 0x55#8)) ∧
    (∀ j, ¬(([] ++ [0x55#8])[j]? = some 0xAA#8 ∧ ([] ++ [0x55#8])[j + 1]? = some 0x55#8)) ∧ (0x55#8 : Byte) ≠ 0xAA#8 :=
  ⟨noMarker_of_all (by decide), noMarker_of_all (by decide), noMarker_of_all (by decide), noMarker_of_all (by decide),
    by decide⟩

theorem wit_ScanDiscardsGarbageBeforeTheMarker :
    let rx : List Byte := [0xAA] ++ 0xAA :: 0x55 :: []
    ∀ j < [(0xAA : Byte)].length, ¬(rx[j]? = some 0xAA#8 ∧ rx[j + 1]? = some 0x55#8) := by decide

/-- Two bytes and thirteen; a declared total equal to the capacity, one byte short. -/
theorem wit_ScanWaitsForAPartialFrame :
    (∀ b ∈ [[0xAA#8, 0x55#8], hb1.take 13, cmdn.take 29], b.take 2 = [0xAA#8, 0x55#8]) ∧
    (buffered 30 [0xAA, 0x55]).rx.length < 14 ∧ (buffered 30 (hb1.take 13)).rx.length < 14 ∧
    14 ≤ (cmdn.take 29).length ∧ byteAt (cmdn.take 29) 2 = 0x01#8 ∧ 14 + (be16 (cmdn.take 29) 10).toNat ≤ 30 ∧
    (cmdn.take 29).length < 14 + (be16 (cmdn.take 29) 10).toNat := by decide +kernel

theorem wit_ScanRejectsOneByteAndCountsOnce :
    (∀ b ∈ [hb1.set 2 0, hb1.set 11 17, cmdn.set 29 0], b.take 2 = [0xAA#8, 0x55#8] ∧ 14 ≤ b.length) ∧
    byteAt (cmdn.set 29 0) 2 = 0x01#8 ∧
    byteAt (hb1.set 2 0) 2 ≠ 0x01#8 ∧
    byteAt (hb1.set 11 17) 2 = 0x01#8 ∧ 30 < 14 + (be16 (hb1.set 11 17) 10).toNat ∧
    14 + (be16 (cmdn.set 29 0) 10).toNat ≤ 30 ∧ 14 + (be16 (cmdn.set 29 0) 10).toNat ≤ (cmdn.set 29 0).length ∧
    crc16 (slice (cmdn.set 29 0) 2 28) ≠ be16 (cmdn.set 29 0) 28 := by decide +kernel

/-- A frame of exactly the capacity, and one with a frame behind it. -/
theorem wit_ScanYieldsAValidFrame :
    (neutral.length < 2 ^ 16 ∧ 14 + neutral.length ≤ 30 ∧ cmdn = wireBytes 0x01 0x1234 1000 neutral 0x4AD9 ++ [] ∧
      crc16 ([0x01#8, 0x01] ++ bytesBe16 0x1234 ++ bytesBe32 1000 ++ bytesBe16 16 ++ neutral) = 0x4AD9#16) ∧
    (hb1 ++ ack1 = wireBytes 0x10 1 0 [] 0x65E3 ++ ack1 ∧
      crc16 ([0x01#8, 0x10] ++ bytesBe16 1 ++ bytesBe32 0 ++ bytesBe16 0 ++ []) = 0x65E3#16) := by decide +kernel

theorem wit_ScanAgreesWithDecode : findMarker (buffered 512 hb1).rx = some 0 := by decide +kernel

theorem wit_DrainNextIsTheScanLoop :
    (scanStep (buffered 512 [0xAA])).1 = .wait ∧ (scanStep (buffered 512 hb1)).1 = .frame hb1Frame ∧
    (scanStep (buffered 512 (0 :: hb1))).1 = .discard .noise 1 := by decide +kernel

theorem wit_DrainIsTheDrainNextLoop : (∃ t, exec .drain (buffered 512 (hb1 ++ [0xAA])) = .next t ∧ t.rx = [0xAA]) ∧
    (∃ u, exec .drainNext State.reset = .next u ∧ u.returned = .next none) ∧
    ∃ u, exec .drainNext (buffered 512 hb1) = .next u ∧ u.returned = .next (some hb1Frame) :=
  ⟨⟨_, rfl, by decide +kernel⟩, ⟨_, rfl, rfl⟩, _, rfl, by decide +kernel⟩

theorem wit_IdleIsStable :
    ∃ t, exec .drainNext (buffered 512 [0xAA, 0x55]) = .next t ∧ t.returned = .next none := ⟨_, rfl, by decide +kernel⟩

/-- Both edges of the split; a frame that fills the buffer, and one whose payload is longer than ENCODE builds. -/
theorem wit_PartialFrameStability :
    let long : List Byte := List.replicate 17 0
    (buffered 30 []).rx = [] ∧ neutral.length < 2 ^ 16 ∧ (wireBytes 0x01 0x1234 1000 neutral 0x4AD9).length ≤ 30 ∧
    1 ≤ 1 ∧ 1 < 30 ∧ 1 ≤ 29 ∧ 29 < (wireBytes 0x01 0x1234 1000 neutral 0x4AD9).length ∧
    crc16 ([0x01#8, 0x01] ++ bytesBe16 0x1234 ++ bytesBe32 1000 ++ bytesBe16 16 ++ neutral) = 0x4AD9#16 ∧
    long.length < 2 ^ 16 ∧ (wireBytes 0x40 0 0 long 0).length ≤ (buffered 31 []).cfg.bufCap := by decide +kernel

/-- S7, in a buffer that the two frames fill, the counter two below its largest value. -/
theorem wit_MultiFrameDrain :
    let ws : List (Byte × U16 × U32 × List Byte) := [(0x10, 1, 0, []), (0x11, 1, 0, [1, 2])]
    let s := { buffered 30 [] with statOk := 2 ^ 32 - 3 }
    s.rx = [] ∧ ws ≠ [] ∧ (∀ w ∈ ws, w.2.2.2.length < 2 ^ 16) ∧
    (ws.flatMap fun w => wireBytes w.1 w.2.1 w.2.2.1 w.2.2.2 0).length ≤ s.cfg.bufCap ∧
    s.statOk + ws.length < 2 ^ s.cfg.cntW := by decide +kernel

/-- Noise longer than the buffer, ending in half a marker. -/
theorem wit_PureNoiseYieldsNothing :
    let noise : List Byte := List.replicate 60 0x55 ++ [0xAA]
    30 ≤ (buffered 30 []).cfg.bufCap ∧ (buffered 30 []).rx = [] ∧ noise ≠ [] ∧
    ∀ j, ¬(noise[j]? = some 0xAA#8 ∧ noise[j + 1]? = some 0x55#8) :=
  ⟨by decide, rfl, by decide, noMarker_of_all (by decide)⟩

/-- A payload that just fits, and an unassigned identifier. -/
theorem wit_ReceivedFrameIsYielded : (buffered 30 []).rx = [] ∧ neutral.length < 2 ^ 16 ∧
    14 + neutral.length ≤ (buffered 30 []).cfg.bufCap ∧ 0x00#8 ∉ assignedIds := by decide +kernel

theorem wit_ReceivedFrameWithBadChecksum :
    let s := { buffered 30 [] with statCrcErr := 2 ^ 32 - 2 }
    30 ≤ s.cfg.bufCap ∧ s.rx = [] ∧ s.statCrcErr < counterMax s.cfg ∧
    (0x65E2#16 : U16) ≠ crc16 ([0x01#8, 0x10] ++ bytesBe16 1 ++ bytesBe32 0 ++ bytesBe16 0#16) := by decide +kernel

theorem wit_InvariantHoldsAtReset : (⟨30, 0⟩ : Config).ok = true := by decide

/-- A step that changes the buffer, in a state that meets the invariant with its buffer full. -/
theorem wit_EveryStepKeepsTheInvariant :
    let s := { buffered 30 (List.replicate 30 0) with requests := [0x30, 0x01, 0xAA] }
    s.Inv ∧ ∃ t, step s = .next t ∧ t.rx = List.replicate 29 0 ++ [0xAA] :=
  ⟨⟨by decide, by decide, by decide, by decide, by decide, by decide⟩, _, rfl, by decide +kernel⟩

theorem wit_CountersSaturateAndAreClearedTogether : 2 ^ 32 - 2 < 2 ^ State.reset.cfg.cntW - 1 ∧ Instr.drain ≠ .statsClear ∧ Instr.drain ≠ .reset ∧
    ∃ t, exec .drain (buffered 512 hb1) = .next t ∧ t.statOk = 1 := ⟨by decide, by decide, by decide, _, rfl, by decide +kernel⟩

/-- An instruction outside each of the four lists of writers. -/
theorem wit_OnlyTheListedOperationsWrite : ∃ t, exec .statsClear (buffered 512 hb1) = .next t ∧ t.rx = hb1 :=
  ⟨_, rfl, rfl⟩

theorem wit_PureOperationsReadAndWriteNoState : pureOp (.crcBlock hb1) = true ∧ pureOp (.decodeFrame hb1) = true ∧
    (buffered 30 hb1).cfg.bufCap = (buffered 30 []).cfg.bufCap := by decide

theorem wit_PortIsNotReadByOperations : ∃ t, exec .reset (buffered 512 hb1) = .next t := ⟨_, rfl⟩

/-- Each agent has an operation that it may issue. -/
theorem wit_AgentsWriteOnlyWhatTheyOwn : Agent.mayIssue .producer (.ingest hb1) = true ∧ Agent.mayIssue .consumer .drain = true ∧
    Agent.mayIssue .sender (.crcByte 0) = true ∧ Agent.mayIssue .operator .statsClear = true ∧ State.reset.dataReady = false ∧
    (State.reset.setReady).dataReady = true := by
  decide

theorem wit_OutcomeCodesOfTheOperations : ∃ t, exec (.decodeFrame []) State.reset = .next t ∧
    t.returned.code.map OutcomeCode.number = some 2 := ⟨_, rfl, by decide⟩

theorem wit_StepRunsTheDecodedInstruction :
    let s := { State.reset with requests := [0x11, 0x31, 0x34] }
    decode s.requests = .ok (.crcByte 0x31, [0x34]) := rfl

theorem wit_IssuedOperationsRunInOrder :
    let ops : List Instr := [.crcInit, .crcByte 0x31, .crcRead]
    (∀ i ∈ ops, i.wf = true) ∧ ([0x10, 0x11, 0x31, 0x12, 0x34] : List Byte) = ops.flatMap encode ++ [0x34] := by decide

/-- One witness for each clause, in their order; the header that ends early is one byte short. -/
theorem wit_StepWithoutAnOperation : State.reset.requests = [] ∧ rejects [0x30] .truncated = true ∧
    ((0x35#8 : Byte) ≠ 0xAA#8 ∧ 0x35#8 ∉ allSelects.map Select.code) ∧ 3 < (0x04#8 : Byte).toNat ∧
    (0x54#8 : Byte) ≠ 0x55#8 ∧ (0x02#8 : Byte) ≠ 0x01#8 ∧
    ((hb1.take 13).take 3 = [0xAA#8, 0x55#8, 0x01#8] ∧ (hb1.take 13).length < 14) ∧
    ([0x30, 0x80, 0x00] : List Byte) = Select.code .ingest :: 0x80#8 :: 0x00#8 :: [] := by decide +kernel

/-- The largest payload length, an identifier that is only the catch-all's, and operands beyond every fixed width. -/
theorem wit_DecodeOfEncodeIsTheInstruction : (Instr.unsupportedId 0xFF 0xFFFF 0 (List.replicate 65535 0) 0).wf = true ∧
    (Instr.packCmd ⟨-1, 2 ^ 70, 0, 0, 0, 0, 0, -2 ^ 70⟩).wf = true := by
  simp only [Instr.wf, payloadFits_zeros]
  decide

theorem wit_EncodeOfDecodeIsTheBytes :
    decode (0x11#8 :: 0xFF#8 :: [0x34#8]) = .ok (.crcByte 0xFF, [0x34]) := rfl

end Sys2Proof.Tests
end

section
/-! What the decoder rejects, one lemma per name, and the step that refuses it. -/

namespace Sys2Proof

/-- The answer `x` of a reader given the bytes `s`: either `s` ended too early, or at least `k` bytes of it were taken. -/
def TakesAtLeast {α : Type} (k : Nat) (s : List Byte) (x : Except Reject (α × List Byte)) : Prop :=
  x = .error .truncated ∨ ∃ a r, x = .ok (a, r) ∧ k + r.length ≤ s.length

/-- One reader after another takes the bytes of both. -/
theorem TakesAtLeast.bind {α β : Type} {k n : Nat} {s : List Byte} {x : Except Reject (α × List Byte)}
    {f : α × List Byte → Except Reject (β × List Byte)} (hx : TakesAtLeast k s x)
    (hf : ∀ a r, TakesAtLeast n r (f (a, r))) : TakesAtLeast (k + n) s (x >>= f) := by
  obtain rfl | ⟨a, r, rfl, hr⟩ := hx
  · exact .inl rfl
  · obtain h | ⟨b, r', h, hr'⟩ := hf a r
    · exact .inl h
    · exact .inr ⟨b, r', h, by omega⟩

/-- A reader that ends takes nothing more. -/
theorem takesAtLeast_pure {α : Type} (a : α) (s : List Byte) : TakesAtLeast 0 s (pure (a, s)) :=
  .inr ⟨a, s, rfl, by omega⟩

/-- A reader that takes `k` bytes takes any smaller number. -/
theorem TakesAtLeast.mono {α : Type} {j k : Nat} {s : List Byte} {x : Except Reject (α × List Byte)}
    (hx : TakesAtLeast k s x) (hj : j ≤ k) : TakesAtLeast j s x :=
  hx.imp_right fun ⟨a, r, h, hr⟩ => ⟨a, r, h, by omega⟩

/-- Fewer bytes than a reader takes are rejected as truncated. -/
theorem TakesAtLeast.eq_truncated {α : Type} {k : Nat} {s : List Byte} {x : Except Reject (α × List Byte)}
    (hx : TakesAtLeast k s x) (hs : s.length < k) : x = .error .truncated := by
  obtain h | ⟨a, r, -, hr⟩ := hx
  · exact h
  · omega

theorem getByte_takesAtLeast (s : List Byte) : TakesAtLeast 1 s (getByte s) := by
  cases s with
  | nil => exact .inl rfl
  | cons b r => exact .inr ⟨b, r, rfl, by simp; omega⟩

theorem getU16_takesAtLeast (s : List Byte) : TakesAtLeast 2 s (getU16 s) := by
  match s with
  | [] | [_] => exact .inl rfl
  | b1 :: b0 :: r => exact .inr ⟨b1 ++ b0, r, rfl, by simp; omega⟩

theorem getU32_takesAtLeast (s : List Byte) : TakesAtLeast 4 s (getU32 s) := by
  match s with
  | [] | [_] | [_, _] | [_, _, _] => exact .inl rfl
  | b3 :: b2 :: b1 :: b0 :: r => exact .inr ⟨(b3 ++ b2 : U16) ++ (b1 ++ b0 : U16), r, rfl, by simp; omega⟩

theorem getBytes_takesAtLeast (n : Nat) (s : List Byte) : TakesAtLeast n s (getBytes n s) := by
  unfold getBytes
  split
  · exact .inl rfl
  · exact .inr ⟨s.take n, s.drop n, rfl, by simp; omega⟩

/-- The fields of a frame after `AA 55 01` fill 11 bytes beside the payload, the checksum among them (R60). -/
theorem decodeFields_takesAtLeast (s : List Byte) : TakesAtLeast 11 s (decodeFields s) :=
  (getByte_takesAtLeast s).bind (n := 10) fun _ s =>
    (getU16_takesAtLeast s).bind (n := 8) fun _ s =>
      (getU32_takesAtLeast s).bind (n := 4) fun _ s =>
        (getU16_takesAtLeast s).bind (n := 2) fun length s =>
          ((getBytes_takesAtLeast length.toNat s).mono (Nat.zero_le _)).bind (n := 2) fun _ s =>
            (getU16_takesAtLeast s).bind (n := 0) fun _ s => takesAtLeast_pure _ s

/-! ### What `decode` rejects -/

/-- A byte outside the select code column of R74 names no operation. -/
theorem Select.ofByte_eq_none {b : Byte} (hb : b ∉ allSelects.map Select.code) : Select.ofByte b = none := by
  refine Option.eq_none_iff_forall_ne_some.mpr fun c hc => hb ?_
  rw [(Select.ofByte_eq_some_iff b c).mp hc]
  exact List.mem_map_of_mem (by cases c <;> decide)

/-- An index above 3 names no counter (R170). -/
theorem Counter.ofByte_eq_none {b : Byte} (hb : 3 < b.toNat) : Counter.ofByte b = none := by
  refine Option.eq_none_iff_forall_ne_some.mpr fun k hk => ?_
  have hle : k.code.toNat ≤ 3 := by cases k <;> decide
  rw [← (Counter.ofByte_eq_some_iff b k).mp hk] at hle
  omega

/-- A select code hands the bytes after it to its operation's readers. -/
theorem decode_code_cons (c : Select) (rest : List Byte) : decode (c.code :: rest) = decodeOperands c rest := by
  simp only [decode, if_neg c.code_ne_marker, (Select.ofByte_eq_some_iff _ c).mpr rfl]

theorem decode_unassignedSelect {b : Byte} (rest : List Byte) (hm : b ≠ Config.marker0)
    (hb : b ∉ allSelects.map Select.code) : decode (b :: rest) = .error (.unassignedSelect b) := by
  simp only [decode, if_neg hm, Select.ofByte_eq_none hb]

theorem decode_noSuchCounter {b : Byte} (rest : List Byte) (hb : 3 < b.toNat) :
    decode (Select.code .statsRead :: b :: rest) = .error (.noSuchCounter b) := by
  rw [decode_code_cons]
  simp [decodeOperands, decodeCounter, bind, Except.bind, Counter.ofByte_eq_none hb]

theorem decode_badMarker {b : Byte} (rest : List Byte) (hb : b ≠ Config.marker1) :
    decode (Config.marker0 :: b :: rest) = .error (.badMarker b) := by
  simp only [decode, decodeWire, if_true, if_pos hb]

theorem decode_badVersion {b : Byte} (rest : List Byte) (hb : b ≠ Config.version) :
    decode (Config.marker0 :: Config.marker1 :: b :: rest) = .error (.badVersion b) := by
  simp [decode, decodeWire, hb]

/-- The right marker and version hand the rest to the readers of the frame's fields. -/
theorem decode_frame_start (rest : List Byte) :
    decode (Config.marker0 :: Config.marker1 :: Config.version :: rest) = decodeFields rest := by
  simp [decode, decodeWire]

/-- A header of fewer than the 14 bytes of R60 ends too early. -/
theorem decode_truncated_header {rest : List Byte} (h : rest.length < 11) :
    decode (Config.marker0 :: Config.marker1 :: Config.version :: rest) = .error .truncated := by
  rw [decode_frame_start]
  exact (decodeFields_takesAtLeast rest).eq_truncated h

/-- A length whose second group is zero is spelt with one byte too many. -/
theorem getSeq_overlongNat (rest : List Byte) : getSeq (0x80#8 :: 0x00#8 :: rest) = .error .overlongNat := rfl

theorem decode_overlongNat {c : Select} (rest : List Byte)
    (hc : c = .crcBlock ∨ c = .decodeFrame ∨ c = .unpackCmd ∨ c = .ingest) :
    decode (c.code :: 0x80#8 :: 0x00#8 :: rest) = .error .overlongNat := by
  rw [decode_code_cons]
  rcases hc with rfl | rfl | rfl | rfl <;> simp only [decodeOperands, getSeq_overlongNat, Except.map]

end Sys2Proof

namespace Sys2Proof.Machine

/-- Bytes at the port that do not decode are refused under the decoder's name for them. -/
theorem step_of_reject {s : State} {why : Reject} (hne : s.requests ≠ []) (h : decode s.requests = .error why) :
    step s = .refused (.notAnOperation why) := by
  simp [step, hne, h]

/-- The same with the bytes at the port written out. -/
theorem step_of_reject_cons {s : State} {why : Reject} {b : Byte} {rest : List Byte} (hs : s.requests = b :: rest)
    (h : decode (b :: rest) = .error why) : step s = .refused (.notAnOperation why) :=
  step_of_reject (by simp [hs]) (by rw [hs, h])

/-- Settles O57: each clause is one of the decoder's rejections above, refused by the step. -/
theorem stepWithoutAnOperation : Obligations.StepWithoutAnOperation := by
  refine ⟨fun s hs => by simp [step, hs], fun s why => step_of_reject,
    fun s b rest hs hm hb => step_of_reject_cons hs (decode_unassignedSelect rest hm hb),
    fun s b rest hs hb => step_of_reject_cons hs (decode_noSuchCounter rest hb),
    fun s b rest hs hb => step_of_reject_cons hs (decode_badMarker _ hb),
    fun s b rest hs hb => step_of_reject_cons hs (decode_badVersion rest hb),
    fun s rest hs hlen => step_of_reject_cons hs (decode_truncated_header ?_),
    fun s c rest hc hs => step_of_reject_cons hs (decode_overlongNat rest hc)⟩
  simp only [hs, List.length_cons] at hlen
  omega

end Sys2Proof.Machine
end

section
/-! What the operations over the buffer keep and what they do not read: INGEST as one update, the fields that the scan and
the drain loops leave alone, and the updates of a state that commute with them. -/

namespace Sys2Proof.Machine

/-! ### INGEST -/

/-- INGEST appends the chunk and raises the flag for a chunk that holds a byte; it writes nothing else (R141). -/
theorem ingest_eq (chunk : List Byte) (s : State) :
    ingest chunk s =
      { s with rx := bufAppend s.cfg.bufCap s.rx chunk, dataReady := s.dataReady || !chunk.isEmpty } := by
  cases chunk with
  | nil => simp
  | cons b bs => simp [ingest, State.append, State.setReady]

/-! ### What the scan keeps -/

/-- The elements that no SCAN_STEP writes (R20, column written by) are the same in both states. -/
structure State.ScanKeeps (s t : State) : Prop where
  cfg : t.cfg = s.cfg
  dataReady : t.dataReady = s.dataReady
  crcAcc : t.crcAcc = s.crcAcc
  requests : t.requests = s.requests

theorem State.ScanKeeps.refl (s : State) : s.ScanKeeps s := ⟨rfl, rfl, rfl, rfl⟩

theorem State.ScanKeeps.trans {s t u : State} (hst : s.ScanKeeps t) (htu : t.ScanKeeps u) : s.ScanKeeps u :=
  ⟨htu.cfg.trans hst.cfg, htu.dataReady.trans hst.dataReady, htu.crcAcc.trans hst.crcAcc,
    htu.requests.trans hst.requests⟩

theorem State.ScanKeeps.handBack {s t : State} (h : s.ScanKeeps t) (r : Returned) : s.ScanKeeps (t.handBack r) :=
  ⟨h.cfg, h.dataReady, h.crcAcc, h.requests⟩

theorem scanStep_keeps {s : State} {r : ScanResult} {s' : State} (h : scanStep s = (r, s')) : s.ScanKeeps s' := by
  obtain ⟨-, rfl⟩ | ⟨n, -, -, -, rfl⟩ | ⟨-, -, rfl⟩ | ⟨-, -, rfl⟩ | ⟨-, -, rfl⟩ | ⟨f, n, -, -, -, rfl⟩ :=
    scanStep_shape h <;> exact ⟨rfl, rfl, rfl, rfl⟩

theorem drainNext_keeps (s : State) : s.ScanKeeps (drainNext s).2 :=
  drainNext_induct (fun _ _ _ h hs => h.trans (scanStep_keeps hs)) (.refl s)

theorem drain_keeps (s : State) : s.ScanKeeps (drain s).2 :=
  drain_induct (fun _ _ _ h hs => h.trans (scanStep_keeps hs)) (.refl s)

/-- The three drain operations (R143 to R145) write none of the elements that a SCAN_STEP keeps. -/
theorem exec_scanKeeps {i : Instr} {s t : State} (hi : i = .scanStep ∨ i = .drainNext ∨ i = .drain)
    (ht : exec i s = .next t) : s.ScanKeeps t := by
  obtain rfl | rfl | rfl := hi <;> cases ht
  · exact (scanStep_keeps rfl).handBack _
  · exact (drainNext_keeps s).handBack _
  · exact (drain_keeps s).handBack _

/-- A frame row writes the buffer, the flag and the counters only. -/
theorem receiveFrame_keeps {bytes : List Byte} {s t : State} (ht : receiveFrame bytes s = .next t) :
    t.cfg = s.cfg ∧ t.requests = s.requests ∧ t.crcAcc = s.crcAcc := by
  cases ht
  obtain ⟨hcfg, -, hacc, hreq⟩ := drain_keeps (ingest bytes s)
  rw [ingest_eq] at *
  exact ⟨hcfg, hreq, hacc⟩

/-! ### What the scan does not read -/

/-- An update of a state that the scan does not notice: it keeps what the scan reads, and commutes with each of the
updates that a SCAN_STEP is made of. -/
structure ScanIgnores (g : State → State) : Prop where
  cfg : ∀ s, (g s).cfg = s.cfg
  rx : ∀ s, (g s).rx = s.rx
  discard : ∀ s n, (g s).discard n = g (s.discard n)
  countOk : ∀ s, (g s).countOk = g s.countOk
  countCrcErr : ∀ s, (g s).countCrcErr = g s.countCrcErr
  countLenErr : ∀ s, (g s).countLenErr = g s.countLenErr
  countUnsupported : ∀ s, (g s).countUnsupported = g s.countUnsupported

section
variable {g : State → State} (hg : ScanIgnores g) (s : State)
include hg

theorem ScanIgnores.scanNoMarker : scanNoMarker (g s) = Prod.map id g (scanNoMarker s) := by
  simp only [Machine.scanNoMarker, State.rxLen, hg.rx, hg.discard, apply_ite (Prod.map id g), Prod.map_apply, id]

theorem ScanIgnores.scanCandidate : scanCandidate (g s) = Prod.map id g (scanCandidate s) := by
  simp only [Machine.scanCandidate, State.rxLen, hg.cfg, hg.rx, hg.discard, hg.countOk, hg.countCrcErr, hg.countLenErr,
    hg.countUnsupported, apply_ite (Prod.map id g), Prod.map_apply, id]

theorem ScanIgnores.scanStep : scanStep (g s) = Prod.map id g (scanStep s) := by
  simp only [Machine.scanStep, hg.rx]
  cases findMarker s.rx with
  | none => exact hg.scanNoMarker s
  | some off => simp only [hg.discard, hg.scanCandidate, apply_ite (Prod.map id g), Prod.map_apply, id]

theorem ScanIgnores.drainNextFuel (n : Nat) : drainNextFuel n (g s) = Prod.map id g (drainNextFuel n s) := by
  induction n generalizing s with
  | zero => rfl
  | succ n ih =>
    simp only [Machine.drainNextFuel, hg.scanStep]
    rcases Machine.scanStep s with ⟨_ | _ | _, s'⟩
    · rfl
    · exact ih s'
    · rfl

theorem ScanIgnores.drainNext : drainNext (g s) = Prod.map id g (drainNext s) := by
  simp only [Machine.drainNext, State.rxLen, hg.rx, hg.drainNextFuel]

theorem ScanIgnores.drainFuel (n : Nat) : drainFuel n (g s) = Prod.map id g (drainFuel n s) := by
  induction n generalizing s with
  | zero => rfl
  | succ n ih =>
    simp only [Machine.drainFuel, hg.drainNext]
    rcases Machine.drainNext s with ⟨_ | f, s'⟩
    · rfl
    · simp only [Prod.map_apply, id, ih s']
      rfl

theorem ScanIgnores.drain : drain (g s) = Prod.map id g (drain s) := by
  simp only [Machine.drain, State.rxLen, hg.rx, hg.drainFuel]

/-- A drain operation answers as without the update, and leaves the update of what it left without it. -/
theorem ScanIgnores.exec {i : Instr} {t : State} (hi : i = .scanStep ∨ i = .drainNext ∨ i = .drain)
    (ht : exec i s = .next t) : ∃ u r, t = u.handBack r ∧ exec i (g s) = .next ((g u).handBack r) := by
  obtain rfl | rfl | rfl := hi <;> cases ht <;> refine ⟨_, _, rfl, ?_⟩
  · simp only [Machine.exec, execScanStep, hg.scanStep, Prod.map_fst, Prod.map_snd, id]
  · simp only [Machine.exec, execDrainNext, hg.drainNext, Prod.map_fst, Prod.map_snd, id]
  · simp only [Machine.exec, execDrain, hg.drain, Prod.map_fst, Prod.map_snd, id]

end

/-- The state with the flag at `b`. -/
def State.withReady (b : Bool) (s : State) : State := { s with dataReady := b }

/-- The scan does not test the flag (R26). -/
theorem scanIgnores_withReady (b : Bool) : ScanIgnores (State.withReady b) :=
  ⟨fun _ => rfl, fun _ => rfl, fun _ _ => rfl, fun _ => rfl, fun _ => rfl, fun _ => rfl, fun _ => rfl⟩

/-- The state with these operations issued and this last result (the port of log entry 3). -/
def State.withPort (q : List Byte) (r : Returned) (s : State) : State := { s with requests := q, returned := r }

/-- The scan does not look at the port. -/
theorem scanIgnores_withPort (q : List Byte) (r : Returned) : ScanIgnores (State.withPort q r) :=
  ⟨fun _ => rfl, fun _ => rfl, fun _ _ => rfl, fun _ => rfl, fun _ => rfl, fun _ => rfl, fun _ => rfl⟩

/-- INGEST does not look at the port. -/
theorem ingest_withPort (chunk : List Byte) (q : List Byte) (r : Returned) (s : State) :
    ingest chunk (s.withPort q r) = (ingest chunk s).withPort q r := by
  simp only [ingest_eq]
  rfl

end Sys2Proof.Machine
end

section
/-! The state invariant (R7, R24, R28): it holds right after construction, and each update that an operation is
made of keeps it. -/

namespace Sys2Proof.Machine

/-- An increment does not leave the width of a counter (R28). -/
theorem satInc_le {c : Config} {n : Nat} (h : n ≤ counterMax c) : satInc c n ≤ counterMax c := by
  unfold satInc
  split <;> omega

/-- An allowed capacity holds at least one byte (R7). -/
theorem bufCap_pos_of_ok {c : Config} (h : c.ok = true) : 0 < c.bufCap :=
  Nat.lt_of_lt_of_le (by decide) (of_decide_eq_true h)

theorem construct_inv {c : Config} (h : c.ok = true) : (State.construct c).Inv :=
  ⟨h, construct_wf c, Nat.zero_le _, Nat.zero_le _, Nat.zero_le _, Nat.zero_le _⟩

namespace State.Inv
variable {s : State} (h : s.Inv)
include h

theorem ingest (chunk : List Byte) : (ingest chunk s).Inv := by
  rw [ingest_eq]
  exact { h with rx_wf := bufAppend_wf (bufCap_pos_of_ok h.cfg_ok) h.rx_wf }

theorem discard (n : Nat) : (s.discard n).Inv := { h with rx_wf := bufDiscard_wf h.rx_wf }

theorem countOk : s.countOk.Inv := { h with ok_le := satInc_le h.ok_le }

theorem countCrcErr : s.countCrcErr.Inv := { h with crcErr_le := satInc_le h.crcErr_le }

theorem countLenErr : s.countLenErr.Inv := { h with lenErr_le := satInc_le h.lenErr_le }

theorem countUnsupported : s.countUnsupported.Inv := { h with unsupported_le := satInc_le h.unsupported_le }

theorem clearCounters : s.clearCounters.Inv :=
  ⟨h.cfg_ok, h.rx_wf, Nat.zero_le _, Nat.zero_le _, Nat.zero_le _, Nat.zero_le _⟩

theorem scanStep {r : ScanResult} {s' : State} (hs : scanStep s = (r, s')) : s'.Inv := by
  obtain ⟨-, rfl⟩ | ⟨n, -, -, -, rfl⟩ | ⟨-, -, rfl⟩ | ⟨-, -, rfl⟩ | ⟨-, -, rfl⟩ | ⟨f, n, -, -, -, rfl⟩ :=
    scanStep_shape hs
  · exact h
  · exact h.discard n
  · exact h.countUnsupported.discard 1
  · exact h.countLenErr.discard 1
  · exact h.countCrcErr.discard 1
  · exact (h.discard n).countOk

/-- Every operation keeps the invariant. -/
theorem exec {i : Instr} {t : State} (ht : exec i s = .next t) : t.Inv :=
  exec_induct (P := State.Inv) (handBack := fun _ _ h => { h with }) (ingest := fun _ chunk h => h.ingest chunk)
    (scan := fun _ _ _ h => h.scanStep) (clearReady := fun _ h => { h with })
    (clearCounters := fun _ h => h.clearCounters) (crc := fun _ _ h => { h with })
    (reset := fun _ h => { construct_inv h.cfg_ok with }) h ht

end State.Inv

/-- Settles O49: an idle step changes nothing, and any other performs one operation on the state with its bytes taken from
the port, which the invariant does not speak of. -/
theorem everyStepKeepsTheInvariant : Obligations.EveryStepKeepsTheInvariant := by
  intro s t h ht
  obtain ⟨-, hidle⟩ | ⟨i, rest, -, hexec⟩ | ⟨why, -, hrefused⟩ := step_cases s
  · cases hidle.symm.trans ht
    exact h
  · have hrest : State.Inv { s with requests := rest } := { h with }
    exact hrest.exec (hexec.symm.trans ht)
  · cases hrefused.symm.trans ht

/-- Settles O48: construction with allowed parameters meets the invariant, and the default ones are allowed. -/
theorem invariantHoldsAtReset : Obligations.InvariantHoldsAtReset :=
  ⟨construct_inv (by decide), fun _ => construct_inv⟩

end Sys2Proof.Machine
end

section
/-! What each operation may write and what it does not look at (R20, R26, R32). -/

namespace Sys2Proof.Machine

/-- Settles O26: each drain operation keeps the flag, and commutes with setting it. -/
theorem drainsIgnoreTheFlag : Obligations.DrainsIgnoreTheFlag := by
  intro i s t b hi ht
  refine ⟨(exec_scanKeeps hi ht).dataReady, ?_⟩
  obtain ⟨u, r, rfl, h⟩ := (scanIgnores_withReady b).exec s hi ht
  exact h

/-- Settles O52: INGEST and the drains commute with setting the port; every other operation computes from the fields of the
block alone. -/
theorem portIsNotReadByOperations : Obligations.PortIsNotReadByOperations := by
  intro i s t q r ht
  have hg := scanIgnores_withPort q r
  have drains : i = .scanStep ∨ i = .drainNext ∨ i = .drain → exec i (s.withPort q r) = .next { t with requests := q } := by
    intro hi
    obtain ⟨u, r', rfl, h⟩ := hg.exec s hi ht
    exact h
  have frame : ∀ bytes, receiveFrame bytes s = .next t →
      receiveFrame bytes (s.withPort q r) = .next { t with requests := q } := by
    rintro bytes hb
    cases hb
    simp only [receiveFrame, ingest_withPort, hg.drain]
    rfl
  change exec i (s.withPort q r) = .next { t with requests := q }
  cases i with
  | command | heartbeat | heartbeatAck | reserved20 | reserved40 | unsupportedId => exact frame _ ht
  | ingest chunk =>
    cases ht
    simp only [exec, execIngest, ingest_withPort]
    rfl
  | scanStep | drainNext | drain => exact drains (by simp)
  | reset | statsRead | statsClear | crcInit | crcByte | crcRead | crcBlock | encodeFrame | decodeFrame | packCmd | unpackCmd
  | readyClear => cases ht; rfl

/-- Settles O50: what a frame row and a drain operation keep is said above; INGEST and every other operation is one update,
which writes the elements named and no other. -/
theorem onlyTheListedOperationsWrite : Obligations.OnlyTheListedOperationsWrite := by
  intro i s t ht isFrame isIngest isScan
  by_cases hs : isScan
  · obtain ⟨hcfg, hready, hacc, hreq⟩ := exec_scanKeeps hs ht
    exact ⟨hcfg, hreq, fun _ _ h => absurd hs h, fun _ _ _ _ => hready, fun _ h => absurd hs h, fun _ _ _ => hacc⟩
  by_cases hf : isFrame
  · obtain ⟨bytes, hb⟩ : ∃ bytes, receiveFrame bytes s = .next t := by
      obtain ⟨id, q, ts, p, c, rfl | rfl | rfl | rfl | rfl | rfl⟩ := hf <;> exact ⟨_, ht⟩
    obtain ⟨hcfg, hreq, hacc⟩ := receiveFrame_keeps hb
    exact ⟨hcfg, hreq, absurd hf, absurd hf, absurd hf, fun _ _ _ => hacc⟩
  cases i with
  | command | heartbeat | heartbeatAck | reserved20 | reserved40 | unsupportedId => exact absurd (by simp [isFrame]) hf
  | ingest chunk =>
    have hi : isIngest := ⟨chunk, rfl⟩
    cases ht
    rw [ingest_eq]
    exact ⟨rfl, rfl, fun _ => absurd hi, fun _ => absurd hi, fun _ _ _ _ => ⟨rfl, rfl, rfl, rfl⟩, fun _ _ _ => rfl⟩
  | scanStep | drainNext | drain => exact absurd (by simp [isScan]) hs
  | reset =>
    cases ht
    exact ⟨rfl, rfl, fun _ _ _ h => absurd rfl h, fun _ _ _ h => absurd rfl h, fun _ _ _ h => absurd rfl h,
      fun _ _ h => absurd rfl h⟩
  | statsClear =>
    cases ht
    exact ⟨rfl, rfl, fun _ _ _ _ => rfl, fun _ _ _ _ => rfl, fun _ _ h => absurd rfl h, fun _ _ _ => rfl⟩
  | readyClear =>
    cases ht
    exact ⟨rfl, rfl, fun _ _ _ _ => rfl, fun _ _ h => absurd rfl h, fun _ _ _ _ => ⟨rfl, rfl, rfl, rfl⟩, fun _ _ _ => rfl⟩
  | crcInit =>
    cases ht
    exact ⟨rfl, rfl, fun _ _ _ _ => rfl, fun _ _ _ _ => rfl, fun _ _ _ _ => ⟨rfl, rfl, rfl, rfl⟩, fun h => absurd rfl h⟩
  | crcByte b =>
    cases ht
    exact ⟨rfl, rfl, fun _ _ _ _ => rfl, fun _ _ _ _ => rfl, fun _ _ _ _ => ⟨rfl, rfl, rfl, rfl⟩,
      fun _ h => absurd rfl (h b)⟩
  | statsRead | crcRead | crcBlock | encodeFrame | decodeFrame | packCmd | unpackCmd =>
    cases ht
    exact ⟨rfl, rfl, fun _ _ _ _ => rfl, fun _ _ _ _ => rfl, fun _ _ _ _ => ⟨rfl, rfl, rfl, rfl⟩, fun _ _ _ => rfl⟩

/-- Settles O1: construction sets each element, and RESET is a construction that keeps the parameters and the port. -/
theorem resetValuesOfEveryElement : Obligations.ResetValuesOfEveryElement :=
  ⟨⟨rfl, rfl, rfl, rfl, rfl, rfl, rfl⟩, fun _ => ⟨rfl, rfl, rfl, rfl, rfl, rfl, rfl⟩, fun _ => rfl⟩

end Sys2Proof.Machine
end

section
/-! The decoder reads an encoded instruction back: the readers of a frame's fields, of eight integers, and of each operation's
operands, one after another. -/

namespace Sys2Proof

@[simp] theorem getChannels_putChannels (v : Channels Int) (r : List Byte) :
    getChannels (putChannels v ++ r) = .ok (v, r) := by
  simp [getChannels, putChannels, bind, Except.bind, pure, Except.pure]

/-- The readers of a frame's fields give back what `wireBytes` lays out after `AA 55 01` (R60). -/
theorem decode_wireBytes {p : List Byte} (hp : payloadFits p = true) (id : Byte) (q : U16) (t : U32) (c : U16)
    (rest : List Byte) : decode (wireBytes id q t p c ++ rest) = .ok (frameInstr id q t p c, rest) := by
  have hwire : wireBytes id q t p c ++ rest = Config.marker0 :: Config.marker1 :: Config.version :: id ::
      (bytesBe16 q ++ (bytesBe32 t ++ (bytesBe16 (BitVec.ofNat 16 p.length) ++ (p ++ (bytesBe16 c ++ rest))))) := by
    simp [wireBytes, frameHead]
  have hlen : p.length = (BitVec.ofNat 16 p.length).toNat := by
    rw [BitVec.toNat_ofNat, Nat.mod_eq_of_lt (of_decide_eq_true hp)]
  rw [hwire, decode_frame_start]
  simp only [decodeFields, bind, Except.bind, pure, Except.pure, getByte_cons, getU16_put, getU32_put, getBytes_append hlen]

/-- An identifier that R63 neither assigns nor reserves selects the catch-all row. -/
theorem frameInstr_unassigned {id : Byte} (h : id ∉ assignedIds) (q : U16) (t : U32) (p : List Byte) (c : U16) :
    frameInstr id q t p c = .unsupportedId id q t p c := by
  simp only [assignedIds, List.mem_cons, List.not_mem_nil, or_false, not_or] at h
  obtain ⟨h1, h2, h3, h4, h5⟩ := h
  simp only [frameInstr, if_neg h1, if_neg h2, if_neg h3, if_neg h4, if_neg h5]

/-- A well-formed instruction is read back from its bytes, whatever follows them: a frame field by field, an operation by
its select code and then its operands. -/
theorem decode_encode {i : Instr} (hwf : i.wf = true) (rest : List Byte) : decode (encode i ++ rest) = .ok (i, rest) := by
  cases i with
  | command | heartbeat | heartbeatAck | reserved20 | reserved40 => exact decode_wireBytes hwf _ _ _ _ rest
  | unsupportedId id q t p c =>
    simp only [Instr.wf, Bool.and_eq_true, Bool.not_eq_true', List.contains_eq_mem, decide_eq_false_iff_not] at hwf
    obtain ⟨hid, hp⟩ := hwf
    exact (decode_wireBytes hp id q t c rest).trans (by rw [frameInstr_unassigned hid])
  | reset | statsClear | crcInit | crcByte | crcRead | scanStep | drainNext | drain | readyClear =>
    exact decode_code_cons _ _
  | statsRead k => cases k <;> exact decode_code_cons _ _
  | crcBlock | decodeFrame | packCmd | unpackCmd | ingest =>
    exact (decode_code_cons _ _).trans (by simp [decodeOperands, Except.map])
  | encodeFrame =>
    exact (decode_code_cons _ _).trans
      (by simp [decodeOperands, decodeEncode, bind, Except.bind, pure, Except.pure])

end Sys2Proof
end

section
/-! The receive buffer and its bytes (R41 to R44): a field read where it stands, and BufAppend as the last `BUF_CAP`
bytes. -/

namespace Sys2Proof

/-! ### A field in the middle of a byte sequence -/

theorem be16_append_right {s t : List Byte} {i : Nat} (h : i + 1 < t.length) : be16 (s ++ t) (s.length + i) = be16 t i := by
  rw [be16, Nat.add_assoc, byteAt_append_right h, byteAt_append_right (show i < t.length by omega), be16]

theorem be32_append_right {s t : List Byte} {i : Nat} (h : i + 3 < t.length) : be32 (s ++ t) (s.length + i) = be32 t i := by
  rw [be32, Nat.add_assoc, be16_append_right (show i + 2 + 1 < t.length by omega),
    be16_append_right (show i + 1 < t.length by omega), be32]

/-- Two bytes read at the offset where they stand are read as if they stood alone. -/
theorem be16_at (a d : List Byte) {f : List Byte} (h : f.length = 2) : be16 (a ++ f ++ d) a.length = be16 f 0 := by
  rw [be16_append_left (by simp [h])]
  exact be16_append_right (i := 0) (by omega)

theorem be32_at (a d : List Byte) {f : List Byte} (h : f.length = 4) : be32 (a ++ f ++ d) a.length = be32 f 0 := by
  rw [be32_append_left (by simp [h])]
  exact be32_append_right (i := 0) (by omega)

theorem be16_bytesBe16 (v : U16) : be16 (bytesBe16 v) 0 = v := halves16 v

theorem be32_bytesBe32 (v : U32) : be32 (bytesBe32 v) 0 = v := quarters32 v

end Sys2Proof

namespace Sys2Proof.Machine

/-! ### MemRead -/

/-- A read of `k + n` bytes is the read of the first `k`, moved up by `n` bytes, and the read of the last `n`. -/
theorem memRead_add (m : Memory) (off k n : Nat) :
    memRead m off (k + n) = memRead m off k * 256 ^ n + memRead m (off + k) n := by
  induction n with
  | zero => simp [memRead]
  | succ n ih =>
    rw [← Nat.add_assoc, memRead, ih, memRead, Nat.add_assoc off]
    ring

/-- `be16(s, i) = s[i]*256 + s[i+1]` (R12). -/
theorem be16_toNat (s : List Byte) (i : Nat) : (be16 s i).toNat = (byteAt s i).toNat * 256 + (byteAt s (i + 1)).toNat := by
  simp [← memRead_two, memRead]

/-- The four-byte read is the 32-bit big-endian field (R12, R44). -/
theorem memRead_four (m : Memory) (off : Nat) : memRead m off 4 = (be32 m off).toNat := by
  rw [memRead_add m off 2 2, memRead_two, memRead_two, be32, BitVec.toNat_append,
    ← Nat.shiftLeft_add_eq_or_of_lt (BitVec.isLt _), Nat.shiftLeft_eq, show 256 ^ 2 = 2 ^ 16 from rfl]

/-! ### BufPush and BufAppend -/

/-- With room BufPush only appends (R42). -/
theorem bufPush_of_room {cap : Nat} {m : Memory} {b : Byte} (h : m.length < cap) : bufPush cap m b = m ++ [b] := by
  rw [bufPush, if_neg (Nat.ne_of_lt h)]

/-- In a full buffer the oldest byte makes room (R42). -/
theorem bufPush_of_full {cap : Nat} {rest : Memory} {old b : Byte} (h : (old :: rest).length = cap) :
    bufPush cap (old :: rest) b = rest ++ [b] := by
  rw [bufPush, if_pos h, List.drop_one, List.tail_cons]

/-- BufPush keeps the last `cap` bytes of the buffer followed by the new one, full or not. -/
theorem bufPush_eq_drop {cap : Nat} {m : Memory} (hcap : 0 < cap) (hm : m.length ≤ cap) (b : Byte) :
    bufPush cap m b = (m ++ [b]).drop (m.length + 1 - cap) := by
  obtain hroom | hfull := Nat.lt_or_eq_of_le hm
  · rw [bufPush_of_room hroom, Nat.sub_eq_zero_of_le hroom, List.drop_zero]
  · cases m with
    | nil => exact absurd hfull (Nat.ne_of_lt hcap)
    | cons old rest =>
      rw [bufPush_of_full hfull, hfull, Nat.add_sub_cancel_left]
      rfl

/-- BufAppend keeps the last `cap` bytes of the buffer followed by the chunk (R43). -/
theorem bufAppend_eq_drop {cap : Nat} {m : Memory} (hcap : 0 < cap) (hm : m.length ≤ cap) (chunk : List Byte) :
    bufAppend cap m chunk = (m ++ chunk).drop (m.length + chunk.length - cap) := by
  induction chunk generalizing m with
  | nil => simp [Nat.sub_eq_zero_of_le hm]
  | cons b bs ih =>
    have hpush := bufPush_eq_drop hcap hm b
    have hlen : (bufPush cap m b).length = m.length + 1 - (m.length + 1 - cap) := by simp [hpush]
    rw [bufAppend_cons, ih (by omega), hlen, hpush, ← List.drop_append_of_le_length (by simp), List.drop_drop,
      List.append_assoc, List.singleton_append, List.length_cons]
    congr 1
    omega

end Sys2Proof.Machine
end

section
/-! The statements about memory accesses (R41 to R50): big-endian fields, the append, the operations that touch no state, and
the order in which issued operations run. -/

namespace Sys2Proof.Machine

/-- Settles O21: the two forms of BufPush, then BufAppend as the last `cap` bytes; a chunk as long as the capacity leaves
none of the old content. -/
theorem bufAppendKeepsTheMostRecentBytes : Obligations.BufAppendKeepsTheMostRecentBytes := by
  intro cap m b chunk hcap hm
  have hdrop := bufAppend_eq_drop hcap hm chunk
  refine ⟨bufPush_of_room, ?_, by rw [hdrop, List.length_append], bufAppend_of_room, fun hchunk => ?_⟩
  · rintro old rest rfl hfull
    exact bufPush_of_full hfull
  · rw [hdrop, Nat.add_sub_assoc hchunk, List.drop_length_add_append]

/-- Settles O22: a field read where it stands is the field read alone, and MemRead reads the same numbers. -/
theorem fieldsAreBigEndian : Obligations.FieldsAreBigEndian := by
  intro a d v w
  have h16 : be16 (a ++ bytesBe16 v ++ d) a.length = v := (be16_at a d rfl).trans (be16_bytesBe16 v)
  have h32 : be32 (a ++ bytesBe32 w ++ d) a.length = w := (be32_at a d rfl).trans (be32_bytesBe32 w)
  refine ⟨h16, h32, by rw [memRead_two, h16], by rw [memRead_four, h32], fun b0 b1 => ?_⟩
  rw [be16_at a d rfl, be16_toNat]
  rfl

/-- A pure operation hands back a function of `BUF_CAP` and writes nothing else (R49). -/
theorem exec_of_pureOp {i : Instr} (hi : pureOp i = true) :
    ∃ result : Nat → Returned, ∀ s, exec i s = .next (s.handBack (result s.cfg.bufCap)) := by
  cases i with
  | crcBlock | encodeFrame | packCmd | unpackCmd => exact ⟨fun _ => _, fun _ => rfl⟩
  | decodeFrame bytes => exact ⟨fun cap => .decoded (codecDecode cap bytes), fun _ => rfl⟩
  | command | heartbeat | heartbeatAck | reserved20 | reserved40 | unsupportedId | reset | statsRead | statsClear | crcInit
  | crcByte | crcRead | ingest | scanStep | drainNext | drain | readyClear => cases hi

/-- Settles O51: the result is one function of `BUF_CAP`, which the two states share. -/
theorem pureOperationsReadAndWriteNoState : Obligations.PureOperationsReadAndWriteNoState := by
  intro i s s' hi hcap
  obtain ⟨result, hresult⟩ := exec_of_pureOp hi
  exact ⟨result s.cfg.bufCap, hresult s, by rw [hresult s', hcap]; rfl⟩

/-- Settles O55: bytes that decode are not an empty port. -/
theorem stepRunsTheDecodedInstruction : Obligations.StepRunsTheDecodedInstruction := by
  intro s i rest h
  refine step_of_decode (fun hempty => ?_) h
  rw [hempty] at h
  cases h

/-- No operation takes bytes from the port or puts any there (log entry 3). -/
theorem exec_requests {i : Instr} {s t : State} (ht : exec i s = .next t) : t.requests = s.requests := by
  obtain ⟨-, hreq, -⟩ := onlyTheListedOperationsWrite i s t ht
  exact hreq

/-- With a well-formed instruction's bytes at the front of the port, a step performs it, leaves the bytes behind it, and
leaves of the block what the instruction performed at any other port would (R47). -/
theorem step_of_issued {i : Instr} {s : State} {rest : List Byte} (hwf : i.wf = true)
    (hs : s.requests = encode i ++ rest) :
    ∃ u, step s = .next u ∧ u.requests = rest ∧
      ∀ q, exec i { s with requests := q } = .next { u with requests := q } := by
  obtain ⟨u, hu⟩ := exec_isNext i { s with requests := rest }
  have hstep : step s = .next u :=
    (stepRunsTheDecodedInstruction s i rest (by rw [hs, decode_encode hwf])).trans hu
  exact ⟨u, hstep, exec_requests hu, fun q => portIsNotReadByOperations i { s with requests := rest } u q s.returned hu⟩

/-- Settles O56, by induction on the operations issued: one step performs the first of them and leaves the others at the
port. -/
theorem issuedOperationsRunInOrder : Obligations.IssuedOperationsRunInOrder := by
  intro ops later
  induction ops with
  | nil =>
    rintro s - hs
    obtain rfl : s.requests = later := hs
    exact ⟨s, rfl, rfl, rfl⟩
  | cons i ops ih =>
    intro s hwf hs
    obtain ⟨hi, hops⟩ := List.forall_mem_cons.mp hwf
    rw [List.flatMap_cons, List.append_assoc] at hs
    obtain ⟨u, hstep, hrest, hexec⟩ := step_of_issued hi hs
    obtain ⟨t, hrun, hperform, hlater⟩ := ih u hops hrest
    refine ⟨t, ?_, ?_, hlater⟩
    · rw [List.length_cons, runSteps, hstep]
      exact hrun
    · rw [performAll, hexec later]
      exact hperform

end Sys2Proof.Machine
end

section
/-! The encoder writes back what the decoder has read: each reader takes exactly the bytes that its writer puts, so no
instruction has two spellings. -/

namespace Sys2Proof

/-! ### Readers and their writers -/

/-- Whatever the reader `get` answers, the bytes it took are those that the writer `put` lays out for the answer. -/
def Spells {α : Type} (put : α → List Byte) (get : List Byte → Except Reject (α × List Byte)) : Prop :=
  ∀ {s a r}, get s = .ok (a, r) → s = put a ++ r

/-- A reader followed by another has answered first. -/
theorem of_bind_ok {α β : Type} {x : Except Reject (α × List Byte)} {f : α × List Byte → Except Reject β} {b : β}
    (h : x >>= f = .ok b) : ∃ a r, x = .ok (a, r) ∧ f (a, r) = .ok b := by
  cases x with
  | error e => cases h
  | ok p => exact ⟨p.1, p.2, rfl, h⟩

section
variable {α β : Type} {put : α → List Byte} {get : List Byte → Except Reject (α × List Byte)} (hget : Spells put get)
include hget

theorem Spells.of_bind {s : List Byte} {f : α × List Byte → Except Reject β} {b : β} (h : get s >>= f = .ok b) :
    ∃ a r, s = put a ++ r ∧ f (a, r) = .ok b := by
  obtain ⟨a, r, ha, hb⟩ := of_bind_ok h
  exact ⟨a, r, hget ha, hb⟩

theorem Spells.of_map {s : List Byte} {f : α × List Byte → β} {b : β} (h : (get s).map f = .ok b) :
    ∃ a r, s = put a ++ r ∧ f (a, r) = b := by
  obtain ⟨a, r, hs, hb⟩ := hget.of_bind (f := fun p => .ok (f p)) h
  exact ⟨a, r, hs, Except.ok.inj hb⟩

end

theorem bytesBe16_append (b1 b0 : Byte) : bytesBe16 (b1 ++ b0) = [b1, b0] := by
  rw [bytesBe16, BitVec.extractLsb'_append_eq_left, BitVec.extractLsb'_append_eq_right]

theorem bytesBe32_append (hi lo : U16) : bytesBe32 (hi ++ lo) = bytesBe16 hi ++ bytesBe16 lo := by
  rw [bytesBe32, BitVec.extractLsb'_append_eq_of_le (xlo := lo) (start := 24) (by decide),
    BitVec.extractLsb'_append_eq_of_le (xlo := lo) (start := 16) (by decide),
    BitVec.extractLsb'_append_eq_of_add_le (xlo := lo) (start := 8) (len := 8) (by decide),
    BitVec.extractLsb'_append_eq_of_add_le (xlo := lo) (start := 0) (len := 8) (by decide)]
  rfl

theorem getByte_spells : Spells (fun b => [b]) getByte
  | _ :: _, _, _, rfl => rfl

theorem getU16_spells : Spells bytesBe16 getU16
  | _ :: _ :: _, _, _, rfl => by rw [bytesBe16_append]; rfl

theorem getU32_spells : Spells bytesBe32 getU32
  | _ :: _ :: _ :: _ :: _, _, _, rfl => by rw [bytesBe32_append, bytesBe16_append, bytesBe16_append]; rfl

/-- The next `n` bytes are `n` bytes, and stand as they are. -/
theorem of_getBytes_ok {n : Nat} {s p r : List Byte} (h : getBytes n s = .ok (p, r)) : s = p ++ r ∧ p.length = n := by
  unfold getBytes at h
  split at h
  · cases h
  · cases h
    exact ⟨(List.take_append_drop n s).symm, List.length_take_of_le (by omega)⟩

theorem getSeq_spells : Spells putSeq getSeq := by
  intro s p r h
  unfold getSeq at h
  split at h
  · cases h
  · obtain ⟨rfl, rfl⟩ := of_getBytes_ok h
    rw [putSeq, List.append_assoc]
    exact putNat_of_getNat ‹_›

theorem getInt_spells : Spells putInt getInt := by
  intro s v r h
  unfold getInt at h
  split at h
  · cases h
  · cases h
    rw [putInt, zigzag_unzigzag]
    exact putNat_of_getNat ‹_›

theorem getChannels_spells : Spells putChannels getChannels := by
  intro s v r h
  obtain ⟨c0, s0, rfl, h0⟩ := getInt_spells.of_bind h
  obtain ⟨c1, s1, rfl, h1⟩ := getInt_spells.of_bind h0
  obtain ⟨c2, s2, rfl, h2⟩ := getInt_spells.of_bind h1
  obtain ⟨c3, s3, rfl, h3⟩ := getInt_spells.of_bind h2
  obtain ⟨c4, s4, rfl, h4⟩ := getInt_spells.of_bind h3
  obtain ⟨c5, s5, rfl, h5⟩ := getInt_spells.of_bind h4
  obtain ⟨c6, s6, rfl, h6⟩ := getInt_spells.of_bind h5
  obtain ⟨c7, s7, rfl, h7⟩ := getInt_spells.of_bind h6
  cases h7
  simp only [putChannels, List.append_assoc]

/-! ### Frames -/

/-- The six frame rows, by identifier (R63): what holds of each row's instruction holds of the one that an identifier
selects. -/
theorem frameInstr_cases {q : U16} {t : U32} {p : List Byte} {c : U16} {motive : Byte → Instr → Prop}
    (command : motive 0x01#8 (.command q t p c)) (heartbeat : motive 0x10#8 (.heartbeat q t p c))
    (heartbeatAck : motive 0x11#8 (.heartbeatAck q t p c)) (reserved20 : motive 0x20#8 (.reserved20 q t p c))
    (reserved40 : motive 0x40#8 (.reserved40 q t p c))
    (unassigned : ∀ id, id ∉ assignedIds → motive id (.unsupportedId id q t p c)) (id : Byte) :
    motive id (frameInstr id q t p c) := by
  by_cases hid : id ∈ assignedIds
  · simp only [assignedIds, List.mem_cons, List.not_mem_nil, or_false] at hid
    obtain rfl | rfl | rfl | rfl | rfl := hid
    · exact command
    · exact heartbeat
    · exact heartbeatAck
    · exact reserved20
    · exact reserved40
  · rw [frameInstr_unassigned hid]
    exact unassigned id hid

theorem encode_frameInstr (id : Byte) (q : U16) (t : U32) (p : List Byte) (c : U16) :
    encode (frameInstr id q t p c) = wireBytes id q t p c :=
  frameInstr_cases (motive := fun id i => encode i = wireBytes id q t p c) rfl rfl rfl rfl rfl (fun _ _ => rfl) id

theorem wf_frameInstr (id : Byte) (q : U16) (t : U32) (p : List Byte) (c : U16) :
    (frameInstr id q t p c).wf = payloadFits p :=
  frameInstr_cases (motive := fun _ i => i.wf = payloadFits p) rfl rfl rfl rfl rfl
    (fun id hid => by simp [Instr.wf, hid]) id

/-- The fields that were read after `AA 55 01` are those of one wire frame (R60), whose payload fits the length field. -/
theorem of_decodeFields_ok {s : List Byte} {i : Instr} {r : List Byte} (h : decodeFields s = .ok (i, r)) :
    i.wf = true ∧ Config.marker0 :: Config.marker1 :: Config.version :: s = encode i ++ r := by
  obtain ⟨id, s1, rfl, h1⟩ := getByte_spells.of_bind h
  obtain ⟨q, s2, rfl, h2⟩ := getU16_spells.of_bind h1
  obtain ⟨t, s3, rfl, h3⟩ := getU32_spells.of_bind h2
  obtain ⟨len, s4, rfl, h4⟩ := getU16_spells.of_bind h3
  obtain ⟨p, s5, hp, h5⟩ := of_bind_ok h4
  obtain ⟨c, s6, rfl, h6⟩ := getU16_spells.of_bind h5
  obtain ⟨rfl, hlen⟩ := of_getBytes_ok hp
  cases h6
  have hfield : BitVec.ofNat 16 p.length = len := by simp [hlen]
  constructor
  · rw [wf_frameInstr]
    exact decide_eq_true (hlen ▸ len.isLt)
  · simp [encode_frameInstr, wireBytes, frameHead, hfield]

/-- What decodes after the first byte of a marker is a frame of version `01` (R61, R62). -/
theorem of_decode_frame_ok {s : List Byte} {i : Instr} {r : List Byte} (h : decode (Config.marker0 :: s) = .ok (i, r)) :
    i.wf = true ∧ Config.marker0 :: s = encode i ++ r := by
  match s with
  | [] => cases h
  | m :: s =>
    by_cases hm : m = Config.marker1
    · subst hm
      match s with
      | [] => cases h
      | v :: s =>
        by_cases hv : v = Config.version
        · subst hv
          exact of_decodeFields_ok ((decode_frame_start s).symm.trans h)
        · rw [decode_badVersion s hv] at h
          cases h
    · rw [decode_badMarker s hm] at h
      cases h

/-! ### Operations -/

theorem of_decodeCounter_ok {s : List Byte} {i : Instr} {r : List Byte} (h : decodeCounter s = .ok (i, r)) :
    ∃ k, i = .statsRead k ∧ s = k.code :: r := by
  obtain ⟨b, s1, rfl, h1⟩ := getByte_spells.of_bind h
  dsimp only at h1
  split at h1
  next k hk =>
    cases h1
    obtain rfl := (Counter.ofByte_eq_some_iff b k).mp hk
    exact ⟨k, rfl, rfl⟩
  next => cases h1

theorem of_decodeEncode_ok {s : List Byte} {i : Instr} {r : List Byte} (h : decodeEncode s = .ok (i, r)) :
    ∃ id q t p, i = .encodeFrame id q t p ∧ s = id :: (bytesBe16 q ++ bytesBe32 t ++ putSeq p) ++ r := by
  obtain ⟨id, s1, rfl, h1⟩ := getByte_spells.of_bind h
  obtain ⟨q, s2, rfl, h2⟩ := getU16_spells.of_bind h1
  obtain ⟨t, s3, rfl, h3⟩ := getU32_spells.of_bind h2
  obtain ⟨p, s4, rfl, h4⟩ := getSeq_spells.of_bind h3
  cases h4
  exact ⟨id, q, t, p, rfl, by simp⟩

/-- An operation's operands and its select code before them are its encoding (R74). -/
theorem of_decodeOperands_ok {c : Select} {s : List Byte} {i : Instr} {r : List Byte}
    (h : decodeOperands c s = .ok (i, r)) : i.wf = true ∧ c.code :: s = encode i ++ r := by
  cases c with
  | reset | statsClear | crcInit | crcRead | scanStep | drainNext | drain | readyClear =>
    cases h
    exact ⟨rfl, rfl⟩
  | statsRead =>
    obtain ⟨k, rfl, rfl⟩ := of_decodeCounter_ok h
    exact ⟨rfl, rfl⟩
  | encodeFrame =>
    obtain ⟨id, q, t, p, rfl, rfl⟩ := of_decodeEncode_ok h
    exact ⟨rfl, rfl⟩
  | crcByte =>
    obtain ⟨b, s', rfl, h'⟩ := getByte_spells.of_map h
    cases h'
    exact ⟨rfl, rfl⟩
  | packCmd =>
    obtain ⟨v, s', rfl, h'⟩ := getChannels_spells.of_map h
    cases h'
    exact ⟨rfl, rfl⟩
  | crcBlock | decodeFrame | unpackCmd | ingest =>
    obtain ⟨p, s', rfl, h'⟩ := getSeq_spells.of_map h
    cases h'
    exact ⟨rfl, rfl⟩

/-- What decodes is well-formed, and its bytes are its encoding followed by the rest. -/
theorem of_decode_ok {s : List Byte} {i : Instr} {r : List Byte} (h : decode s = .ok (i, r)) :
    i.wf = true ∧ s = encode i ++ r := by
  cases s with
  | nil => cases h
  | cons b rest =>
    by_cases hb : b = Config.marker0
    · subst hb
      exact of_decode_frame_ok h
    · rw [decode, if_neg hb] at h
      split at h
      next c hc =>
        obtain rfl := (Select.ofByte_eq_some_iff b c).mp hc
        exact of_decodeOperands_ok h
      next => cases h

end Sys2Proof
end

section
/-! A frame with a wrong checksum (R72 row 4): one SCAN_STEP counts it and drops its first byte, and what is left is too
short to hold another frame. -/

namespace Sys2Proof.Machine

theorem State.discard_zero (s : State) : s.discard 0 = s := rfl

theorem State.discard_discard (s : State) (j k : Nat) : (s.discard j).discard k = s.discard (j + k) := by
  simp only [State.discard, bufDiscard, List.drop_drop]

/-- A counter below its largest value is incremented (R28). -/
theorem satInc_of_lt {c : Config} {n : Nat} (h : n < counterMax c) : satInc c n = n + 1 := if_pos h

/-! ### The drain loops -/

/-- A discard of bytes that are there shortens the buffer (R45). -/
theorem State.rxLen_discard_lt {s : State} {n : Nat} (hn : 1 ≤ n) (hlen : n ≤ s.rxLen) : (s.discard n).rxLen < s.rxLen := by
  simp only [State.rxLen, State.discard_rx, bufDiscard, List.length_drop] at *
  omega

/-- Every discard shortens the buffer (R183). -/
theorem rxLen_lt_of_discard {s s' : State} {why : Reason} {n : Nat} (h : scanStep s = (.discard why n, s')) :
    s'.rxLen < s.rxLen := by
  obtain ⟨hr, -⟩ | ⟨n, -, hn, hle, rfl⟩ | ⟨-, hlen, rfl⟩ | ⟨-, hlen, rfl⟩ | ⟨-, hlen, rfl⟩ | ⟨f, n, hr, -⟩ :=
    scanStep_shape h
  · cases hr
  · exact State.rxLen_discard_lt hn hle
  · exact State.rxLen_discard_lt (s := s.countUnsupported) (Nat.le_refl 1) (Nat.le_trans (by decide) hlen)
  · exact State.rxLen_discard_lt (s := s.countLenErr) (Nat.le_refl 1) (Nat.le_trans (by decide) hlen)
  · exact State.rxLen_discard_lt (s := s.countCrcErr) (Nat.le_refl 1) (Nat.le_trans (by decide) hlen)
  · cases hr

/-- After a discard DRAIN_NEXT goes on from what is left (R144). -/
theorem drainNext_of_discard {s s' : State} {why : Reason} {n : Nat} (h : scanStep s = (.discard why n, s')) :
    drainNext s = drainNext s' := by
  have hlt := rxLen_lt_of_discard h
  rw [drainNext, drainNextFuel, h]
  exact drainNextFuel_eq hlt (Nat.lt_succ_self _)

/-- DRAIN ends where DRAIN_NEXT is IDLE (R145). -/
theorem drain_of_idle {s s' : State} (h : drainNext s = (none, s')) : drain s = ([], s') := by
  rw [drain, drainFuel, h]

/-- Fewer than the 14 bytes of the shortest frame: a SCAN_STEP waits or drops noise, and counts nothing. -/
theorem scanStep_of_short {s : State} (h : s.rxLen < 14) :
    scanStep s = (.wait, s) ∨ ∃ n, scanStep s = (.discard .noise n, s.discard n) := by
  obtain ⟨hr, hs⟩ | ⟨n, hr, -, -, hs⟩ | ⟨-, hlen, -⟩ | ⟨-, hlen, -⟩ | ⟨-, hlen, -⟩ | ⟨f, n, -, hn, hle, -⟩ :=
    scanStep_shape (s := s) rfl
  · exact .inl (Prod.ext hr hs)
  · exact .inr ⟨n, Prod.ext hr hs⟩
  all_goals omega

/-- Fewer than 14 bytes yield no frame: DRAIN_NEXT only drops bytes from the front. -/
theorem drainNext_of_short {s : State} (h : s.rxLen < 14) : ∃ k, drainNext s = (none, s.discard k) := by
  suffices loop : ∀ fuel s, s.rxLen < 14 → ∃ k, drainNextFuel fuel s = (none, s.discard k) from loop _ s h
  intro fuel
  induction fuel with
  | zero => exact fun s _ => ⟨0, by rw [drainNextFuel, State.discard_zero]⟩
  | succ fuel ih =>
    intro s h
    obtain hs | ⟨n, hs⟩ := scanStep_of_short h
    · exact ⟨0, by rw [drainNextFuel, hs, State.discard_zero]⟩
    · have hlt := rxLen_lt_of_discard hs
      obtain ⟨k, hk⟩ := ih (s.discard n) (by omega)
      exact ⟨n + k, by rw [← State.discard_discard, drainNextFuel, hs]; exact hk⟩

/-! ### One frame at the front of the buffer -/

/-- With a marker at the front, SCAN_STEP looks at the candidate that it begins (R143). -/
theorem scanStep_of_marker {s : State} (h : findMarker s.rx = some 0) : scanStep s = scanCandidate s := by
  rw [scanStep, h]
  exact if_neg (Nat.lt_irrefl 0)

/-- A frame that fits the capacity but carries a wrong checksum loses its first byte and is counted as a CRC error (R143
step 6), whatever stands behind it. -/
theorem scanStep_of_badCrc {s : State} {id : Byte} {q : U16} {t : U32} {p : List Byte} {c : U16} {rest : List Byte}
    (hrx : s.rx = wireBytes id q t p c ++ rest) (hp : p.length < 2 ^ 16) (hcap : 14 + p.length ≤ s.cfg.bufCap)
    (hc : c ≠ crc16 ((frameHead id q t (BitVec.ofNat 16 p.length) p).drop 2)) :
    scanStep s = (.discard .crc 1, s.countCrcErr.discard 1) := by
  have hmarker : findMarker s.rx = some 0 := by
    rw [findMarker_zero_iff, hrx, wireBytes_eq]
    exact ⟨_, rfl⟩
  have hlen : (be16 s.rx 10).toNat = p.length := by
    rw [hrx, wire_length, BitVec.toNat_ofNat, Nat.mod_eq_of_lt hp]
  have hrxLen : 14 + p.length ≤ s.rxLen := by simp [State.rxLen, hrx]
  have hversion : byteAt s.rx 2 = Config.version := by rw [hrx, wire_version]
  have hcrc : crc16 (slice s.rx 2 (12 + p.length)) ≠ be16 s.rx (12 + p.length) := by
    rw [hrx, wire_body, wire_checksum]
    exact hc.symm
  rw [scanStep_of_marker hmarker]
  obtain ⟨-, -, hshort⟩ | ⟨-, -, -, hv⟩ | ⟨-, -, -, -, hover⟩ | ⟨hr, hs, -⟩ | ⟨-, -, -, -, -, hok⟩ :=
    scanCandidate_cases (s := s) rfl
  · omega
  · exact absurd hversion hv
  · omega
  · exact Prod.ext hr hs
  · rw [hlen] at hok
    exact absurd hok hcrc

/-- A frame row is the receipt of the wire frame with its identifier (R117 to R120). -/
theorem exec_frameInstr (id : Byte) (q : U16) (t : U32) (p : List Byte) (c : U16) (s : State) :
    exec (frameInstr id q t p c) s = receiveFrame (wireBytes id q t p c) s :=
  frameInstr_cases (motive := fun id i => exec i s = receiveFrame (wireBytes id q t p c) s)
    rfl rfl rfl rfl rfl (fun _ _ => rfl) id

/-- In an empty buffer, a payload-free frame with a wrong checksum yields nothing: one byte goes with the count, then noise
until fewer than 14 bytes wait. -/
theorem drain_of_badCrc {s : State} {id : Byte} {q : U16} {t : U32} {c : U16} (hrx : s.rx = wireBytes id q t [] c)
    (hcap : 14 ≤ s.cfg.bufCap) (hc : c ≠ crc16 ((frameHead id q t 0#16 []).drop 2)) :
    ∃ k, drain s = ([], s.countCrcErr.discard (1 + k)) := by
  have hscan : scanStep s = (.discard .crc 1, s.countCrcErr.discard 1) :=
    scanStep_of_badCrc (p := []) (rest := []) (by rw [hrx, List.append_nil]) (by decide) hcap hc
  have hshort : (s.countCrcErr.discard 1).rxLen < 14 := by simp [State.rxLen, hrx, bufDiscard]
  obtain ⟨k, hk⟩ := drainNext_of_short hshort
  exact ⟨k, drain_of_idle (by rw [drainNext_of_discard hscan, hk, State.discard_discard])⟩

end Sys2Proof.Machine
end

section
/-! Which results have an outcome code (R75). -/

namespace Sys2Proof.Machine

@[simp] theorem Returned.code_encoded_isSome (r : EncodeResult) : (Returned.encoded r).code.isSome = true := by
  cases r <;> rfl

@[simp] theorem Returned.code_decoded_isSome (r : DecodeResult) : (Returned.decoded r).code.isSome = true := by
  cases r <;> rfl

@[simp] theorem Returned.code_unpacked_isSome (r : UnpackResult) : (Returned.unpacked r).code.isSome = true := by
  cases r <;> rfl

@[simp] theorem Returned.code_scanned_isSome (r : ScanResult) : (Returned.scanned r).code.isSome = true := by
  cases r <;> rfl

@[simp] theorem Returned.code_next_isSome (r : Option Frame) : (Returned.next r).code.isSome = true := by
  cases r <;> rfl

end Sys2Proof.Machine
end

section
/-! The statements about the encodings and the wire format (R60 to R75). -/

namespace Sys2Proof.Machine

/-- Settles O58: a frame is read back by its fields, an operation by its select code and operands (R60, R74). -/
theorem decodeOfEncodeIsTheInstruction : Obligations.DecodeOfEncodeIsTheInstruction :=
  fun _ rest hwf => decode_encode hwf rest

/-- Settles O59: each reader that the decoder is made of takes exactly the bytes of its writer. -/
theorem encodeOfDecodeIsTheBytes : Obligations.EncodeOfDecodeIsTheBytes :=
  fun _ _ _ => of_decode_ok

/-- Settles O45: INGEST puts the frame in the empty buffer, and the DRAIN is that of a frame with a wrong checksum. -/
theorem receivedFrameWithBadChecksum : Obligations.ReceivedFrameWithBadChecksum := by
  intro s id q t c hcap hrx hcount hc
  have hingest : ingest (wireBytes id q t [] c) s = { s with rx := wireBytes id q t [] c, dataReady := true } := by
    rw [ingest_of_room (by simp [wireBytes_eq]) (by simp [hrx]; omega), hrx, List.nil_append]
  obtain ⟨k, hdrain⟩ := drain_of_badCrc (s := ingest (wireBytes id q t [] c) s) (c := c) (by rw [hingest])
    (by rw [hingest]; exact Nat.le_trans (by decide) hcap) (by simpa [frameHead, bytesBe16, bytesBe32] using hc)
  rw [exec_frameInstr, receiveFrame, hdrain, hingest]
  refine ⟨_, rfl, rfl, satInc_of_lt hcount, rfl, rfl, rfl, ?_⟩
  simp [bufDiscard]

/-- Settles O54: the numbers by the table, and then the form of each instruction's result. -/
theorem outcomeCodesOfTheOperations : Obligations.OutcomeCodesOfTheOperations := by
  refine ⟨fun f total n b v => ⟨rfl, rfl, rfl⟩, fun i s t ht => ?_⟩
  rw [Option.isSome_map]
  cases i with
  | encodeFrame | decodeFrame | unpackCmd | scanStep | drainNext =>
    cases ht
    simp
  | command | heartbeat | heartbeatAck | reserved20 | reserved40 | unsupportedId | reset | statsRead | statsClear | crcInit
  | crcByte | crcRead | crcBlock | packCmd | ingest | drain | readyClear =>
    cases ht
    exact iff_of_false Bool.false_ne_true (by simp)

/-- Settles O16: an identifier that is none of the three falls through to the last row (R67). -/
theorem kindOfEveryIdentifier : Obligations.KindOfEveryIdentifier :=
  ⟨rfl, rfl, rfl, fun id h1 h2 h3 => by rw [kindOf, if_neg h1, if_neg h2, if_neg h3]⟩

/-- Settles O60: the rows are compared pair by pair, and the words written out are read by the decoder. -/
theorem opcodeTableIsUnambiguous : Obligations.OpcodeTableIsUnambiguous :=
  ⟨by decide, by decide, rfl, fun _ _ _ _ _ _ _ => rfl, rfl, rfl, rfl, rfl⟩

end Sys2Proof.Machine
end

section
/-! The CRC function: the form that takes one message bit at a time, and what a step keeps apart (R92, R97). -/

namespace Sys2Proof.Machine

/-! ### One message bit at a time -/

/-- One shift with the message bit `m` in the feedback (R92's second form). -/
def crcBit (c : U16) (m : Bool) : U16 := if (c.getLsbD 15 ^^ m) = true then (c <<< 1) ^^^ Config.crcPoly else c <<< 1

/-- One more shift is one shift of the result. -/
theorem crcShifts_succ (n : Nat) (c : U16) : crcShifts (n + 1) c = crcShift (crcShifts n c) := crcShifts_add n 1 c

/-- Message bits `x` already in the remainder: the first of them is the feedback, the others move up by one. -/
theorem crcShift_xor_eq_crcBit (c x : U16) : crcShift (c ^^^ x) = crcBit c (x.getLsbD 15) ^^^ x <<< 1 := by
  simp only [crcShift, crcBit, BitVec.getLsbD_xor, BitVec.shiftLeft_xor_distrib]
  split
  · ac_rfl
  · rfl

/-- `n` shifts consume the top `n` message bits, the highest first. -/
theorem crcShifts_xor_eq_foldl (n : Nat) (c x : U16) :
    crcShifts n (c ^^^ x) = (List.range n).foldl (fun c j => crcBit c ((x <<< j).getLsbD 15)) c ^^^ x <<< n := by
  induction n with
  | zero => simp [crcShifts]
  | succ n ih =>
    rw [crcShifts_succ, ih, crcShift_xor_eq_crcBit, List.range_succ, List.foldl_append, BitVec.shiftLeft_add]
    rfl

/-- The bits of a byte in the top half of the remainder, the highest first. -/
theorem getLsbD_15_topByte (b : Byte) {j : Nat} (hj : j < 8) :
    (b.setWidth 16 <<< 8 <<< j : U16).getLsbD 15 = b.getLsbD (7 - j) := by
  have hlow : ¬15 - j < 8 := by omega
  simp [hlow, show ¬15 < j by omega, show 15 - j - 8 = 7 - j by omega]

/-- Eight shifts push a byte out of the top half. -/
theorem topByte_shiftLeft_8 (b : Byte) : (b.setWidth 16 <<< 8 <<< 8 : U16) = 0#16 := by
  rw [← BitVec.shiftLeft_add, BitVec.shiftLeft_eq_zero (by decide)]

/-- Settles O6: of the byte in the top half, the eight shifts consume bit 7 down to bit 0, and nothing of it is left. -/
theorem crcStepEqualsTheBitSerialForm : Obligations.CrcStepEqualsTheBitSerialForm := by
  intro c b
  have hbits : ∀ c : U16, ∀ j ∈ List.range 8,
      crcBit c ((b.setWidth 16 <<< 8 <<< j : U16).getLsbD 15) = crcBit c (b.getLsbD (7 - j)) :=
    fun c j hj => by rw [getLsbD_15_topByte b (List.mem_range.mp hj)]
  rw [crcStep, crcShifts_xor_eq_foldl, topByte_shiftLeft_8, BitVec.xor_zero, List.foldl_ext _ _ _ hbits]
  rfl

/-! ### A step loses nothing -/

theorem crcShift_injective : Function.Injective crcShift := by
  intro c d h
  have hzero : crcShift (c ^^^ d) = 0#16 := by rw [crcShift_xor, h, BitVec.xor_self]
  exact BitVec.xor_eq_zero_iff.mp (crcShift_eq_zero hzero)

theorem crcShifts_injective (n : Nat) : Function.Injective (crcShifts n) := by
  induction n with
  | zero => exact Function.injective_id
  | succ n ih => exact ih.comp crcShift_injective

theorem crcStep_injective_remainder (b : Byte) : Function.Injective fun c : U16 => crcStep c b :=
  fun _ _ h => (BitVec.xor_left_inj _).mp (crcShifts_injective 8 h)

theorem topByte_injective : Function.Injective fun b : Byte => (b.setWidth 16 <<< 8 : U16) := by
  intro x y h
  apply BitVec.eq_of_getLsbD_eq
  intro i hi
  have hbit := congrArg (fun v : U16 => v.getLsbD (i + 8)) h
  simpa [BitVec.getLsbD_shiftLeft, show i + 8 < 16 by omega] using hbit

theorem crcStep_injective_byte (c : U16) : Function.Injective fun b : Byte => crcStep c b :=
  fun _ _ h => topByte_injective ((BitVec.xor_right_inj _).mp (crcShifts_injective 8 h))

theorem crcFrom_injective (s : List Byte) : Function.Injective fun c : U16 => crcFrom c s := by
  induction s with
  | nil => exact Function.injective_id
  | cons b s ih => exact ih.comp (crcStep_injective_remainder b)

/-- Settles O9: an injection of the finitely many remainders into themselves is a bijection. -/
theorem crcStepLosesNothing : Obligations.CrcStepLosesNothing :=
  ⟨fun b => Finite.injective_iff_bijective.mp (crcStep_injective_remainder b), crcStep_injective_byte⟩

/-- Settles O10: the remainders part at the changed byte, and the bytes behind it keep them apart. -/
theorem crcDetectsOneChangedByte : Obligations.CrcDetectsOneChangedByte := by
  intro a d x y hxy h
  simp only [crc16_eq, crcFrom_append, crcFrom_cons] at h
  exact hxy (crcStep_injective_byte _ (crcFrom_injective d h))

/-! ### Running over a concatenation -/

/-- Settles O7: the fold over `a ++ b` goes on with `b` where `a` ended. -/
theorem crcIsIncremental : Obligations.CrcIsIncremental := by
  refine ⟨rfl, fun a b => ?_⟩
  rw [crc16_eq, crc16_eq, crcFrom_append]
  rfl

/-! ### A message followed by its own CRC -/

/-- Shifts that push out zeros only are a plain shift. -/
theorem crcShifts_of_zero_bits {n : Nat} {x : U16} (h : ∀ j < n, (x <<< j).getLsbD 15 = false) :
    crcShifts n x = x <<< n := by
  induction n with
  | zero => simp [crcShifts]
  | succ n ih =>
    have htop : ¬(x <<< n).getLsbD 15 = true := Bool.eq_false_iff.mp (h n (by omega))
    rw [crcShifts_succ, ih fun j hj => h j (by omega), crcShift, if_neg htop, BitVec.shiftLeft_add]

/-- A step on a byte equal to the top half of the remainder moves the low half up. -/
theorem crcStep_append (hi lo : Byte) : crcStep (hi ++ lo) hi = lo.setWidth 16 <<< 8 := by
  have hcancel : (hi ++ lo : U16) ^^^ (hi.setWidth 16 <<< 8) = lo.setWidth 16 := by
    apply BitVec.eq_of_getLsbD_eq
    intro i hi16
    simp only [BitVec.getLsbD_xor, BitVec.getLsbD_append, BitVec.getLsbD_shiftLeft, BitVec.getLsbD_setWidth]
    by_cases hlow : i < 8
    · simp [hlow, show i < 16 by omega]
    · simp [hlow, show i < 16 by omega, show i - 8 < 16 by omega, BitVec.getLsbD_of_ge lo i (by omega)]
  rw [crcStep, hcancel, crcShifts_of_zero_bits]
  intro j hj
  rw [BitVec.getLsbD_shiftLeft, BitVec.getLsbD_setWidth, BitVec.getLsbD_of_ge lo _ (by omega)]
  simp

/-- A step on the byte that fills the top half, over zeros, ends in zero. -/
theorem crcStep_topByte (b : Byte) : crcStep (b.setWidth 16 <<< 8) b = 0#16 := by
  rw [crcStep, BitVec.xor_self]
  rfl

/-- Settles O8: the high byte of the CRC cancels the top half of the remainder, the low byte what the first step moved
there. -/
theorem crcZeroResidue : Obligations.CrcZeroResidue := by
  intro s
  have hhalves := halves16 (crc16 s)
  calc crc16 (s ++ bytesBe16 (crc16 s))
      = (bytesBe16 (crc16 s)).foldl crcStep (crc16 s) := crcIsIncremental.2 s _
    _ = crcStep (crcStep (crc16 s) ((crc16 s).extractLsb' 8 8)) ((crc16 s).extractLsb' 0 8) := rfl
    _ = 0x0000#16 := by
      generalize (crc16 s).extractLsb' 8 8 = hi, (crc16 s).extractLsb' 0 8 = lo at *
      rw [← hhalves, crcStep_append, crcStep_topByte]

end Sys2Proof.Machine
end

section
/-! The operations of the CRC unit as whole next states (R93 to R96). -/

namespace Sys2Proof.Machine

theorem exec_crcInit (s : State) : exec .crcInit s = .next { s with crcAcc := Config.crcInit, returned := .nothing } := rfl

theorem exec_crcByte (b : Byte) (s : State) :
    exec (.crcByte b) s = .next { s with crcAcc := crcStep s.crcAcc b, returned := .nothing } := rfl

/-- The value handed back is the register itself: the final exclusive or is with `0x0000`. -/
theorem exec_crcRead (s : State) : exec .crcRead s = .next { s with returned := .crc s.crcAcc } := by
  change Host.Outcome.next (s.handBack (.crc (s.crcAcc ^^^ Config.crcXorOut))) = _
  rw [BitVec.xor_zero]
  rfl

theorem exec_crcBlock (bytes : List Byte) (s : State) :
    exec (.crcBlock bytes) s = .next { s with returned := .crc (crcFrom Config.crcInit bytes) } := by
  rw [← crc16_eq]
  rfl

/-- Settles O4: each operation by its next state, and two steps by their values. -/
theorem byteSerialCrcOperations : Obligations.ByteSerialCrcOperations := by
  refine ⟨exec_crcInit, ?_, exec_crcByte, by decide, by decide, exec_crcRead, ?_⟩
  · rintro s t ⟨⟩
    rfl
  · rintro s t ⟨⟩
    exact exec_crcRead _

/-- CRC_BYTE of each byte in turn runs the CRC over them. -/
theorem performAll_map_crcByte (bytes : List Byte) (is : List Instr) (c : U16) (s : State) :
    performAll (bytes.map Instr.crcByte ++ is) { s with crcAcc := c, returned := .nothing } =
      performAll is { s with crcAcc := crcFrom c bytes, returned := .nothing } := by
  induction bytes generalizing c with
  | nil => rfl
  | cons b bytes ih => exact ih (crcStep c b)

/-- Settles O5: CRC_INIT, the bytes one by one, and CRC_READ hand back what CRC_BLOCK does. -/
theorem crcBlockAgreesWithTheSerialOperations : Obligations.CrcBlockAgreesWithTheSerialOperations := by
  refine ⟨exec_crcBlock, fun bytes s =>
    ⟨{ s with crcAcc := crcFrom Config.crcInit bytes, returned := .crc (crcFrom Config.crcInit bytes) }, ?_,
      exec_crcBlock bytes s⟩⟩
  calc performAll ([.crcInit] ++ bytes.map Instr.crcByte ++ [.crcRead]) s
      = performAll (bytes.map Instr.crcByte ++ [.crcRead]) { s with crcAcc := Config.crcInit, returned := .nothing } := rfl
    _ = performAll [.crcRead] { s with crcAcc := crcFrom Config.crcInit bytes, returned := .nothing } :=
      performAll_map_crcByte bytes _ _ s
    _ = some { s with crcAcc := crcFrom Config.crcInit bytes, returned := .crc (crcFrom Config.crcInit bytes) } := by
      rw [performAll, exec_crcRead]
      rfl

end Sys2Proof.Machine
end

section
/-! DECODE, one equation for each answer (R112), and what it reads: nothing behind the declared frame (R44). -/

namespace Sys2Proof.Machine

theorem exec_decodeFrame (b : List Byte) (s : State) :
    exec (.decodeFrame b) s = .next { s with returned := .decoded (codecDecode s.cfg.bufCap b) } := rfl

/-! ### One equation for each answer -/

theorem codecDecode_of_short {cap : Nat} {s : List Byte} (h : s.length < 14) : codecDecode cap s = .error .tooShort :=
  if_pos h

theorem codecDecode_of_badMarker {cap : Nat} {s : List Byte} (hlen : 14 ≤ s.length)
    (h : ¬(byteAt s 0 = Config.marker0 ∧ byteAt s 1 = Config.marker1)) : codecDecode cap s = .error .badMarker := by
  rw [codecDecode, if_neg (Nat.not_lt.mpr hlen), if_pos (not_and_or.mp h)]

theorem codecDecode_of_badVersion {cap : Nat} {s : List Byte} (hlen : 14 ≤ s.length)
    (hm : byteAt s 0 = Config.marker0 ∧ byteAt s 1 = Config.marker1) (h : byteAt s 2 ≠ Config.version) :
    codecDecode cap s = .error .badVersion := by
  rw [codecDecode, if_neg (Nat.not_lt.mpr hlen), if_neg (not_or.mpr ⟨not_not.mpr hm.1, not_not.mpr hm.2⟩), if_pos h]

/-- The slice passes the first three tests of DECODE, those that do not depend on the declared length (R112). -/
structure HeaderOk (s : List Byte) : Prop where
  length_ge : 14 ≤ s.length
  marker : byteAt s 0 = Config.marker0 ∧ byteAt s 1 = Config.marker1
  version : byteAt s 2 = Config.version

section
variable {cap : Nat} {s : List Byte} (h : HeaderOk s)
include h

/-- Behind a good header the declared length decides (R112). -/
theorem codecDecode_of_header : codecDecode cap s =
    if cap < 14 + (be16 s 10).toNat then .error .badLength
    else if s.length < 14 + (be16 s 10).toNat then .error .incomplete
    else if crc16 (slice s 2 (12 + (be16 s 10).toNat)) ≠ be16 s (12 + (be16 s 10).toNat) then .error .badCrc
    else .ok (parseFrame s) (14 + (be16 s 10).toNat) := by
  obtain ⟨hlen, ⟨hm0, hm1⟩, hv⟩ := h
  rw [codecDecode, if_neg (Nat.not_lt.mpr hlen), if_neg (not_or.mpr ⟨not_not.mpr hm0, not_not.mpr hm1⟩),
    if_neg (not_not.mpr hv)]

theorem codecDecode_of_badLength (hcap : cap < 14 + (be16 s 10).toNat) : codecDecode cap s = .error .badLength := by
  rw [codecDecode_of_header h, if_pos hcap]

variable (hcap : 14 + (be16 s 10).toNat ≤ cap)
include hcap

theorem codecDecode_of_incomplete (hlen : s.length < 14 + (be16 s 10).toNat) :
    codecDecode cap s = .error .incomplete := by
  rw [codecDecode_of_header h, if_neg (Nat.not_lt.mpr hcap), if_pos hlen]

variable (hlen : 14 + (be16 s 10).toNat ≤ s.length)
include hlen

theorem codecDecode_of_badCrc
    (hcrc : crc16 (slice s 2 (12 + (be16 s 10).toNat)) ≠ be16 s (12 + (be16 s 10).toNat)) :
    codecDecode cap s = .error .badCrc := by
  rw [codecDecode_of_header h, if_neg (Nat.not_lt.mpr hcap), if_neg (Nat.not_lt.mpr hlen), if_pos hcrc]

theorem codecDecode_of_goodCrc
    (hcrc : crc16 (slice s 2 (12 + (be16 s 10).toNat)) = be16 s (12 + (be16 s 10).toNat)) :
    codecDecode cap s = .ok (parseFrame s) (14 + (be16 s 10).toNat) := by
  rw [codecDecode_of_header h, if_neg (Nat.not_lt.mpr hcap), if_neg (Nat.not_lt.mpr hlen), if_neg (not_not.mpr hcrc)]

end

/-- DECODE answers a frame exactly when every test passes (R112). -/
theorem codecDecode_ok_iff {cap : Nat} {s : List Byte} {f : Frame} {total : Nat} :
    codecDecode cap s = .ok f total ↔
      HeaderOk s ∧ 14 + (be16 s 10).toNat ≤ cap ∧ 14 + (be16 s 10).toNat ≤ s.length ∧
      crc16 (slice s 2 (12 + (be16 s 10).toNat)) = be16 s (12 + (be16 s 10).toNat) ∧
      parseFrame s = f ∧ 14 + (be16 s 10).toNat = total := by
  constructor
  · intro h
    obtain ⟨⟨⟩, -⟩ | ⟨⟨⟩, -⟩ | ⟨hlen, hm0, hm1, ⟨⟨⟩, -⟩ | ⟨hv, ⟨⟨⟩, -⟩ | ⟨hcap, ⟨⟨⟩, -⟩ | ⟨htotal, ⟨⟨⟩, -⟩ | ⟨⟨⟩, hcrc⟩⟩⟩⟩⟩ :=
      codecDecode_cases h
    exact ⟨⟨hlen, ⟨hm0, hm1⟩, hv⟩, hcap, htotal, hcrc, rfl, rfl⟩
  · rintro ⟨h, hcap, hlen, hcrc, rfl, rfl⟩
    exact codecDecode_of_goodCrc h hcap hlen hcrc

/-- Settles O13: one equation for each answer; a frame that is answered has the version that was tested. -/
theorem decodeTakesTheFirstFailingTest : Obligations.DecodeTakesTheFirstFailingTest := by
  intro b s
  simp only [exec_decodeFrame]
  refine ⟨fun hshort => ?_, fun hlen hm => ?_, fun hlen hm hv => ?_, fun hlen hm hv hcap => ?_,
    fun hlen hm hv hcap hincomplete => ?_, fun hlen hm hv hcap htotal hcrc => ?_, fun hlen hm hv hcap htotal hcrc => ?_⟩
  · rw [codecDecode_of_short hshort]
  · rw [codecDecode_of_badMarker hlen hm]
  · rw [codecDecode_of_badVersion hlen hm hv]
  · rw [codecDecode_of_badLength ⟨hlen, hm, hv⟩ hcap]
  · rw [codecDecode_of_incomplete ⟨hlen, hm, hv⟩ hcap hincomplete]
  · rw [codecDecode_of_badCrc ⟨hlen, hm, hv⟩ hcap htotal hcrc]
  · rw [codecDecode_of_goodCrc ⟨hlen, hm, hv⟩ hcap htotal hcrc, parseFrame, hv]

/-! ### What stands behind the frame is not read -/

theorem headerOk_append_iff {a : List Byte} (ha : 14 ≤ a.length) (d : List Byte) : HeaderOk (a ++ d) ↔ HeaderOk a := by
  have hbyte : ∀ i < 3, byteAt (a ++ d) i = byteAt a i := fun i hi => byteAt_append_left (by omega)
  constructor
  · rintro ⟨-, hm, hv⟩
    rw [hbyte 0 (by decide), hbyte 1 (by decide)] at hm
    rw [hbyte 2 (by decide)] at hv
    exact ⟨ha, hm, hv⟩
  · rintro ⟨-, hm, hv⟩
    rw [← hbyte 0 (by decide), ← hbyte 1 (by decide)] at hm
    rw [← hbyte 2 (by decide)] at hv
    exact ⟨by simp; omega, hm, hv⟩

/-- ParseFrame reads within the declared frame (R113). -/
theorem parseFrame_append {a : List Byte} (h : 14 + (be16 a 10).toNat ≤ a.length) (d : List Byte) :
    parseFrame (a ++ d) = parseFrame a := by
  have hlen : be16 (a ++ d) 10 = be16 a 10 := be16_append_left (by omega)
  simp only [parseFrame, hlen]
  rw [byteAt_append_left (by omega), byteAt_append_left (by omega), be16_append_left (by omega),
    be32_append_left (by omega), slice_append_left (by omega), be16_append_left (by omega)]

/-- A frame that ends within `a` is answered alike with anything behind `a`, or with nothing (R112, R44). -/
theorem codecDecode_append_ok_iff {cap total : Nat} {a : List Byte} {f : Frame} (htotal : total ≤ a.length) (d : List Byte) :
    codecDecode cap (a ++ d) = .ok f total ↔ codecDecode cap a = .ok f total := by
  by_cases ha : 14 ≤ a.length
  · have hlen : be16 (a ++ d) 10 = be16 a 10 := be16_append_left (by omega)
    rw [codecDecode_ok_iff, codecDecode_ok_iff, hlen, headerOk_append_iff ha]
    by_cases hend : 14 + (be16 a 10).toNat = total
    · rw [slice_append_left (by omega), be16_append_left (by omega), parseFrame_append (by omega), List.length_append,
        iff_true_intro (show 14 + (be16 a 10).toNat ≤ a.length by omega),
        iff_true_intro (show 14 + (be16 a 10).toNat ≤ a.length + d.length by omega)]
    · simp only [hend, and_false]
  · have hshort : ∀ b, codecDecode cap b ≠ .ok f total := fun b hb => by
      obtain ⟨-, -, -, -, -, hend⟩ := codecDecode_ok_iff.mp hb
      omega
    exact iff_of_false (hshort _) (hshort _)

/-- Settles O14: the slice and its cut differ in what stands behind the frame, as the slice and its extension do. -/
theorem decodeIgnoresSurplusBytes : Obligations.DecodeIgnoresSurplusBytes := by
  intro cap b surplus f total h
  obtain ⟨-, -, hlen, -, rfl, rfl⟩ := codecDecode_ok_iff.mp h
  refine ⟨hlen, rfl, ?_, (codecDecode_append_ok_iff hlen surplus).mpr h, ?_⟩
  · change (slice b 12 (12 + (be16 b 10).toNat)).length = _
    rw [length_slice (by omega), Nat.add_sub_cancel_left]
    rfl
  · rw [← codecDecode_append_ok_iff (a := b.take _) (by simpa using hlen) (b.drop _), List.take_append_drop]
    exact h

end Sys2Proof.Machine
end

section
/-! ENCODE builds a wire frame with the right checksum (R110, R111), and DECODE reads it back (R122). -/

namespace Sys2Proof.Machine

/-- The checksum of a frame: the CRC of its bytes from the version to the end of the payload (R70). -/
def frameCrc (id : Byte) (q : U16) (t : U32) (p : List Byte) : U16 :=
  crc16 ((frameHead id q t (BitVec.ofNat 16 p.length) p).drop 2)

/-- The checksummed bytes, listed (R110). -/
theorem frameCrc_eq (id : Byte) (q : U16) (t : U32) (p : List Byte) :
    frameCrc id q t p =
      crc16 ([0x01#8, id] ++ bytesBe16 q ++ bytesBe32 t ++ bytesBe16 (BitVec.ofNat 16 p.length) ++ p) := rfl

theorem codecEncode_ok_iff {id : Byte} {q : U16} {t : U32} {p f : List Byte} :
    codecEncode id q t p = .ok f ↔ p.length ≤ 16 ∧ f = wireBytes id q t p (frameCrc id q t p) := by
  constructor
  · exact codecEncode_ok
  · rintro ⟨hp, rfl⟩
    exact codecEncode_of_le hp

theorem exec_encodeFrame_of_le {p : List Byte} (h : p.length ≤ 16) (id : Byte) (q : U16) (t : U32) (s : State) :
    exec (.encodeFrame id q t p) s =
      .next { s with returned := .encoded (.ok (wireBytes id q t p (frameCrc id q t p))) } := by
  rw [← codecEncode_ok_iff.mpr ⟨h, rfl⟩]
  rfl

theorem exec_encodeFrame_of_gt {p : List Byte} (h : 16 < p.length) (id : Byte) (q : U16) (t : U32) (s : State) :
    exec (.encodeFrame id q t p) s = .next { s with returned := .encoded .encLen } := by
  rw [← codecEncode_of_gt (id := id) (q := q) (t := t) h]
  rfl

/-- Settles O11: the two outcomes of ENCODE, the wire frame listed byte by byte. -/
theorem encodeBuildsTheFrame : Obligations.EncodeBuildsTheFrame := by
  intro id q t p s
  refine ⟨fun h => exec_encodeFrame_of_gt h id q t s, fun h => ?_⟩
  rw [← frameCrc_eq]
  exact exec_encodeFrame_of_le h id q t s

/-! ### A wire frame whose length field is right -/

section
variable {p : List Byte} (hp : p.length < 2 ^ 16) (id : Byte) (q : U16) (t : U32) (c : U16) (rest : List Byte)
include hp

theorem wire_length_toNat : (be16 (wireBytes id q t p c ++ rest) 10).toNat = p.length := by
  rw [wire_length, BitVec.toNat_ofNat, Nat.mod_eq_of_lt hp]

/-- The checksum test of DECODE and of the scan passes exactly for the right checksum (R112, R143 step 6). -/
theorem wire_crc_iff :
    crc16 (slice (wireBytes id q t p c ++ rest) 2 (12 + (be16 (wireBytes id q t p c ++ rest) 10).toNat)) =
      be16 (wireBytes id q t p c ++ rest) (12 + (be16 (wireBytes id q t p c ++ rest) 10).toNat) ↔
    frameCrc id q t p = c := by
  rw [wire_length_toNat hp, wire_body, wire_checksum, frameCrc]

end

theorem headerOk_wire (id : Byte) (q : U16) (t : U32) (p : List Byte) (c : U16) (rest : List Byte) :
    HeaderOk (wireBytes id q t p c ++ rest) :=
  ⟨by simp; omega, ⟨wire_marker0 .., wire_marker1 ..⟩, wire_version ..⟩

/-- The fields and the checksum can be read off a wire frame, so it has only one spelling (R111). -/
theorem wireBytes_inj {id id' : Byte} {q q' : U16} {t t' : U32} {p p' : List Byte} {c c' : U16} (hp : p.length < 2 ^ 16)
    (hp' : p'.length < 2 ^ 16) (h : wireBytes id q t p c = wireBytes id' q' t' p' c') :
    id = id' ∧ q = q' ∧ t = t' ∧ p = p' := by
  have hframe := parseFrame_wire hp id q t c []
  rw [h, parseFrame_wire hp'] at hframe
  simp only [Frame.mk.injEq] at hframe
  obtain ⟨-, hid, -, hq, ht, -, hpayload, -⟩ := hframe
  exact ⟨hid.symm, hq.symm, ht.symm, hpayload.symm⟩

/-- A frame's body followed by its checksum has CRC zero (R97 item 3). -/
theorem crc16_wire_residue (id : Byte) (q : U16) (t : U32) (p : List Byte) :
    crc16 (slice (wireBytes id q t p (frameCrc id q t p)) 2 (14 + p.length)) = 0x0000#16 := by
  rw [slice, List.take_of_length_le (by simp)]
  exact crcZeroResidue _

/-- Settles O12: the fields of the wire frame that ENCODE builds, and that they can be read off it. -/
theorem encodedFrameProperties : Obligations.EncodedFrameProperties := by
  constructor
  · intro id q t p f h
    obtain ⟨hp, rfl⟩ := codecEncode_ok_iff.mp h
    have hp' : p.length < 2 ^ 16 := by omega
    have hversion := wire_version id q t p (frameCrc id q t p) []
    have hlength := wire_length_toNat hp' id q t (frameCrc id q t p) []
    have hcrc := (wire_crc_iff hp' id q t (frameCrc id q t p) []).mpr rfl
    rw [hlength] at hcrc
    rw [List.append_nil] at hversion hlength hcrc
    exact ⟨length_wireBytes .., by rw [length_wireBytes]; omega, rfl, hversion, hlength, hcrc.symm,
      crc16_wire_residue id q t p⟩
  · intro id id' q q' t t' p p' f h h'
    obtain ⟨hp, rfl⟩ := codecEncode_ok_iff.mp h
    obtain ⟨hp', hf⟩ := codecEncode_ok_iff.mp h'
    exact wireBytes_inj (by omega) (by omega) hf

/-! ### DECODE of an encoded frame -/

/-- The record of a frame with a right checksum (R22, R113). -/
def goodFrame (id : Byte) (q : U16) (t : U32) (p : List Byte) : Frame :=
  ⟨Config.version, id, kindOf id, q, t, BitVec.ofNat 16 p.length, p, frameCrc id q t p⟩

/-- A frame that fits and carries its right checksum is decoded, whatever stands behind it (R112). -/
theorem codecDecode_wire {cap : Nat} {p : List Byte} (hp : p.length < 2 ^ 16) (hcap : 14 + p.length ≤ cap) (id : Byte)
    (q : U16) (t : U32) (rest : List Byte) :
    codecDecode cap (wireBytes id q t p (frameCrc id q t p) ++ rest) = .ok (goodFrame id q t p) (14 + p.length) := by
  rw [codecDecode_ok_iff, wire_crc_iff hp, wire_length_toNat hp, parseFrame_wire hp]
  exact ⟨headerOk_wire .., hcap, by simp, rfl, rfl, rfl⟩

theorem exec_decodeFrame_wire {p : List Byte} {s : State} (hp : p.length < 2 ^ 16) (hcap : 14 + p.length ≤ s.cfg.bufCap)
    (id : Byte) (q : U16) (t : U32) :
    exec (.decodeFrame (wireBytes id q t p (frameCrc id q t p))) s =
      .next { s with returned := .decoded (.ok (goodFrame id q t p) (14 + p.length)) } := by
  rw [exec_decodeFrame, ← codecDecode_wire hp hcap id q t [], List.append_nil]

/-- Settles O15: ENCODE's bytes are decoded to the frame with the same fields; the checksum is the CRC of the body. -/
theorem decodeOfEncodeRoundTrip : Obligations.DecodeOfEncodeRoundTrip := by
  intro id q t p s hp hcap
  refine ⟨_, exec_encodeFrame_of_le hp id q t s, ?_⟩
  have hbody := wire_body id q t p (frameCrc id q t p) []
  rw [List.append_nil] at hbody
  rw [hbody, exec_decodeFrame_wire (by omega) (by omega)]
  rfl

end Sys2Proof.Machine
end

section
/-! Command vectors: PACK_CMD and UNPACK_CMD (R114, R115), and the derived constructors (R117 to R119). -/

namespace Sys2Proof

theorem Channels.map_congr {α β : Type} {f g : α → β} {v : Channels α} (h : ∀ x ∈ v.toList, f x = g x) : v.map f = v.map g := by
  simp only [Channels.toList, List.forall_mem_cons] at h
  obtain ⟨h0, h1, h2, h3, h4, h5, h6, h7, -⟩ := h
  simp only [Channels.map, h0, h1, h2, h3, h4, h5, h6, h7]

/-! ### The clamp -/

theorem clampChannel_eq_max_min (x : Int) : clampChannel x = max 0 (min x 10000) := by
  simp only [clampChannel, Config.cmdMin, Config.cmdMax]
  split
  · omega
  · split <;> omega

theorem clampChannel_of_mem {x : Int} (h : 0 ≤ x ∧ x ≤ 10000) : clampChannel x = x := by
  rw [clampChannel_eq_max_min, min_eq_left h.2, max_eq_right h.1]

/-- A clamped value fits the 16-bit field (R68). -/
theorem channelWord_toNat (x : Int) : Int.ofNat (channelWord x).toNat = clampChannel x := by
  have hrange : 0 ≤ clampChannel x ∧ clampChannel x ≤ 10000 := by rw [clampChannel_eq_max_min]; omega
  simp only [channelWord, BitVec.toNat_ofInt, Int.ofNat_eq_natCast]
  omega

theorem map_channelWord_toNat (v : Channels Int) :
    (v.map channelWord).map (fun x => Int.ofNat x.toNat) = v.map clampChannel :=
  Channels.map_congr fun x _ => channelWord_toNat x

/-- A vector in range is its own clamp (R114). -/
theorem map_clampChannel_of_mem {v : Channels Int} (h : ∀ x ∈ v.toList, 0 ≤ x ∧ x ≤ 10000) : v.map clampChannel = v :=
  Channels.map_congr (g := id) fun x hx => clampChannel_of_mem (h x hx)

end Sys2Proof

namespace Sys2Proof.Machine

/-! ### PACK_CMD and UNPACK_CMD -/

theorem length_packCmd (v : Channels Int) : (packCmd v).length = 16 := rfl

/-- UNPACK_CMD reads the words that PACK_CMD stored (R114, R115). -/
theorem unpackCmd_packCmd (v : Channels Int) : unpackCmd (packCmd v) = .ok (v.map channelWord) := by
  have hword : Channels.ofFn (fun k => be16 (packCmd v) (2 * k)) =
      v.map fun x => ((channelWord x).extractLsb' 8 8 ++ (channelWord x).extractLsb' 0 8 : U16) := rfl
  rw [unpackCmd, if_neg (not_not.mpr (length_packCmd v)), hword]
  simp only [halves16]

theorem exec_unpackCmd (p : List Byte) (s : State) :
    exec (.unpackCmd p) s = .next { s with returned := .unpacked (unpackCmd p) } := rfl

/-- Settles O17: the sixteen bytes are the eight clamped words, each in two bytes. -/
theorem packCmdClampsAndStores : Obligations.PackCmdClampsAndStores :=
  fun _ _ => rfl

/-- Settles O18: the words that UNPACK_CMD reads from a packed vector are its clamped values. -/
theorem unpackCmdReturnsTheRawValues : Obligations.UnpackCmdReturnsTheRawValues := by
  refine ⟨fun p s => ⟨fun h => ?_, fun h => ?_⟩, fun v =>
    ⟨v.map channelWord, unpackCmd_packCmd v, map_channelWord_toNat v, fun h => ?_⟩⟩
  · rw [exec_unpackCmd, unpackCmd, if_pos h]
  · rw [exec_unpackCmd, unpackCmd, if_neg (not_not.mpr h)]
    rfl
  · rw [map_channelWord_toNat, map_clampChannel_of_mem h]

/-- Settles O19: ENCODE and DECODE carry the packed vector unchanged, and UNPACK_CMD reads its clamped values. -/
theorem commandVectorRoundTrip : Obligations.CommandVectorRoundTrip := by
  intro q t v s hcap
  have hlen := length_packCmd v
  have hunpack : exec (.unpackCmd (packCmd v)) s = .next { s with returned := .unpacked (.ok (v.map channelWord)) } := by
    rw [exec_unpackCmd, unpackCmd_packCmd]
  refine ⟨_, goodFrame 0x01#8 q t (packCmd v), v.map channelWord, exec_encodeFrame_of_le (by omega) 0x01#8 q t s,
    length_wireBytes .., exec_decodeFrame_wire (by omega) (by omega) 0x01#8 q t, rfl, rfl, rfl, rfl, hunpack, ?_,
    fun h => ?_⟩
  · simp only [map_channelWord_toNat, ← clampChannel_eq_max_min]
  · rw [map_channelWord_toNat, map_clampChannel_of_mem h]

/-! ### The derived constructors -/

/-- Settles O46: each is one ENCODE, and the bytes of the frame row with the right checksum. -/
theorem derivedConstructorsBuildTheFrameRows : Obligations.DerivedConstructorsBuildTheFrameRows := by
  intro q t v s
  have hpack : (packCmd v).length ≤ 16 := by rw [length_packCmd]
  have hnil : ([] : List Byte).length ≤ 16 := Nat.zero_le 16
  exact ⟨⟨_, exec_encodeFrame_of_le hpack 0x01#8 q t s, length_wireBytes ..⟩,
    ⟨_, exec_encodeFrame_of_le hnil 0x10#8 q t s, length_wireBytes ..⟩,
    ⟨_, exec_encodeFrame_of_le hnil 0x11#8 q t s, length_wireBytes ..⟩⟩

end Sys2Proof.Machine
end

section
/-! A frame with a right checksum that meets an empty buffer (R117 to R120): one SCAN_STEP yields it, and the DRAIN ends. -/

namespace Sys2Proof.Machine

/-- A frame that fits the capacity and carries its right checksum is yielded and counted as ok (R143 step 7), whatever stands
behind it. -/
theorem scanStep_of_goodFrame {s : State} {id : Byte} {q : U16} {t : U32} {p : List Byte} {rest : List Byte}
    (hrx : s.rx = wireBytes id q t p (frameCrc id q t p) ++ rest) (hp : p.length < 2 ^ 16)
    (hcap : 14 + p.length ≤ s.cfg.bufCap) :
    scanStep s = (.frame (goodFrame id q t p), (s.discard (14 + p.length)).countOk) := by
  have hmarker : findMarker s.rx = some 0 := by
    rw [findMarker_zero_iff, hrx, wireBytes_eq]
    exact ⟨_, rfl⟩
  have hlen : (be16 s.rx 10).toNat = p.length := by rw [hrx, wire_length_toNat hp]
  have hrxLen : 14 + p.length ≤ s.rxLen := by simp [State.rxLen, hrx]
  have hversion : byteAt s.rx 2 = Config.version := by rw [hrx, wire_version]
  have hcrc : crc16 (slice s.rx 2 (12 + (be16 s.rx 10).toNat)) = be16 s.rx (12 + (be16 s.rx 10).toNat) := by
    rw [hrx, wire_crc_iff hp]
  have hframe : parseFrame (slice s.rx 0 (14 + p.length)) = goodFrame id q t p := by
    rw [hrx, slice_wire, ← List.append_nil (wireBytes ..), parseFrame_wire hp]
    rfl
  rw [scanStep_of_marker hmarker]
  obtain ⟨-, -, hshort⟩ | ⟨-, -, -, hv⟩ | ⟨-, -, -, -, hover⟩ | ⟨-, -, -, -, -, hbad⟩ | ⟨hr, hs, -⟩ :=
    scanCandidate_cases (s := s) rfl
  · omega
  · exact absurd hversion hv
  · omega
  · exact absurd hcrc hbad
  · rw [hlen] at hr hs
    exact Prod.ext (hr.trans (congrArg _ hframe)) hs

/-- DRAIN_NEXT ends with the first frame (R144). -/
theorem drainNext_of_frame {s s' : State} {f : Frame} (h : scanStep s = (.frame f, s')) : drainNext s = (some f, s') := by
  rw [drainNext, drainNextFuel, h]

/-- An empty buffer is IDLE (R144). -/
theorem drainNext_of_empty {s : State} (h : s.rx = []) : drainNext s = (none, s) := by
  obtain ⟨k, hk⟩ := drainNext_of_short (s := s) (by simp [State.rxLen, h])
  rw [hk, State.discard, h, bufDiscard, List.drop_nil, ← h]

/-- One frame and nothing behind it: DRAIN yields it alone (R145). -/
theorem drain_of_frame_idle {s s' s'' : State} {f : Frame} (hrx : s.rx ≠ []) (h : drainNext s = (some f, s'))
    (hidle : drainNext s' = (none, s'')) : drain s = ([f], s'') := by
  obtain ⟨k, hk⟩ := Nat.exists_eq_add_one_of_ne_zero (mt List.eq_nil_of_length_eq_zero hrx)
  simp only [drain, State.rxLen, hk, drainFuel, h, hidle]

/-- A frame with a right checksum, alone in the buffer, is yielded and leaves the buffer empty. -/
theorem drain_of_goodFrame {s : State} {id : Byte} {q : U16} {t : U32} {p : List Byte}
    (hrx : s.rx = wireBytes id q t p (frameCrc id q t p)) (hp : p.length < 2 ^ 16) (hcap : 14 + p.length ≤ s.cfg.bufCap) :
    drain s = ([goodFrame id q t p], (s.discard (14 + p.length)).countOk) := by
  have hscan := scanStep_of_goodFrame (rest := []) (by rw [hrx, List.append_nil]) hp hcap
  have hempty : ((s.discard (14 + p.length)).countOk).rx = [] := by simp [hrx, bufDiscard]
  exact drain_of_frame_idle (by simp [hrx, wireBytes_eq]) (drainNext_of_frame hscan) (drainNext_of_empty hempty)

/-- The receipt of a frame with a right checksum in an empty buffer, as a whole next state (log entry 5). -/
theorem receiveFrame_of_goodFrame {s : State} {p : List Byte} (hrx : s.rx = []) (hp : p.length < 2 ^ 16)
    (hcap : 14 + p.length ≤ s.cfg.bufCap) (id : Byte) (q : U16) (t : U32) :
    receiveFrame (wireBytes id q t p (frameCrc id q t p)) s = .next
      { s with dataReady := true, statOk := satInc s.cfg s.statOk, returned := .frames [goodFrame id q t p] } := by
  have hingest : ingest (wireBytes id q t p (frameCrc id q t p)) s =
      { s with rx := wireBytes id q t p (frameCrc id q t p), dataReady := true } := by
    rw [ingest_of_room (by simp [wireBytes_eq]) (by simpa [hrx] using hcap), hrx, List.nil_append]
  have hdrain := drain_of_goodFrame (s := ingest (wireBytes id q t p (frameCrc id q t p)) s) (by rw [hingest]) hp
    (by rw [hingest]; exact hcap)
  have hempty : bufDiscard (wireBytes id q t p (frameCrc id q t p)) (14 + p.length) = s.rx := by simp [bufDiscard, hrx]
  rw [receiveFrame, hdrain, hingest, State.discard, hempty]
  rfl

/-- The kind of an identifier outside the five of R63 carries the identifier (R67). -/
theorem kindOf_unassigned {id : Byte} (h : id ∉ assignedIds) : kindOf id = .unsupported id := by
  simp only [assignedIds, List.mem_cons, not_or] at h
  obtain ⟨h1, h10, h11, -⟩ := h
  rw [kindOf, if_neg h1, if_neg h10, if_neg h11]

/-- Settles O44: every frame row is the receipt of its wire frame, whose kind is that of its identifier. -/
theorem receivedFrameIsYielded : Obligations.ReceivedFrameIsYielded := by
  intro s q t p hrx hp hcap
  have hreceive := fun id => receiveFrame_of_goodFrame hrx hp hcap id q t
  refine ⟨hreceive 0x01#8, hreceive 0x10#8, hreceive 0x11#8, hreceive 0x20#8, hreceive 0x40#8, fun id hid => ?_⟩
  rw [← kindOf_unassigned hid]
  exact hreceive id

end Sys2Proof.Machine
end

section
/-! One changed byte of an encoded frame (R121): what it does to the fields and to the checksum test, and the answer of
DECODE by its position. -/

namespace Sys2Proof

/-! ### Reading a sequence in which one byte was changed -/

theorem byteAt_set_self {s : List Byte} {k : Nat} (h : k < s.length) (y : Byte) : byteAt (s.set k y) k = y := by
  simp [byteAt, h]

theorem byteAt_set_of_ne {k i : Nat} (h : k ≠ i) (s : List Byte) (y : Byte) : byteAt (s.set k y) i = byteAt s i := by
  simp only [byteAt, List.getElem?_set_ne h]

theorem byteAt_set_ne {s : List Byte} {k : Nat} {y : Byte} (hk : k < s.length) (hy : y ≠ byteAt s k) :
    byteAt (s.set k y) k ≠ byteAt s k := by
  rwa [byteAt_set_self hk]

theorem be16_set_of_ne {k i : Nat} (h : k ≠ i) (h' : k ≠ i + 1) (s : List Byte) (y : Byte) :
    be16 (s.set k y) i = be16 s i := by
  rw [be16, byteAt_set_of_ne h, byteAt_set_of_ne h', be16]

theorem be16_inj {s s' : List Byte} {i i' : Nat} (h : be16 s i = be16 s' i') :
    byteAt s i = byteAt s' i' ∧ byteAt s (i + 1) = byteAt s' (i' + 1) := by
  have hbytes := congrArg bytesBe16 h
  simpa only [be16, bytesBe16_append, List.cons.injEq, and_true] using hbytes

/-- A changed byte changes the field in which it stands. -/
theorem be16_set_ne {s : List Byte} {k i : Nat} {y : Byte} (hk : k < s.length) (hy : y ≠ byteAt s k) (h : k = i ∨ k = i + 1) :
    be16 (s.set k y) i ≠ be16 s i := by
  intro heq
  obtain ⟨h0, h1⟩ := be16_inj heq
  obtain rfl | rfl := h
  · exact byteAt_set_ne hk hy h0
  · exact byteAt_set_ne hk hy h1

theorem slice_set_of_le {j k : Nat} (h : j ≤ k) (s : List Byte) (i : Nat) (y : Byte) : slice (s.set k y) i j = slice s i j := by
  rw [slice, List.take_set_of_le h, slice]

/-- A changed byte within a slice is a changed byte of the slice. -/
theorem slice_set {i k : Nat} (h : i ≤ k) (s : List Byte) (j : Nat) (y : Byte) :
    slice (s.set k y) i j = (slice s i j).set (k - i) y := by
  rw [slice, List.take_set, List.drop_set, if_neg (Nat.not_lt.mpr h), slice]

theorem byteAt_slice {s : List Byte} {i j k : Nat} (hi : i ≤ k) (hj : k < j) (hk : k < s.length) :
    byteAt (slice s i j) (k - i) = byteAt s k := by
  simp [byteAt, slice, hi, hj, hk]

end Sys2Proof

namespace Sys2Proof.Machine

/-- A changed byte changes the CRC (R97 item 5). -/
theorem crc16_set_ne {s : List Byte} {k : Nat} {y : Byte} (hk : k < s.length) (hy : y ≠ byteAt s k) :
    crc16 (s.set k y) ≠ crc16 s := by
  have hs : s.take k ++ byteAt s k :: s.drop (k + 1) = s := by
    rw [byteAt_eq_getElem hk, ← List.drop_eq_getElem_cons hk, List.take_append_drop]
  have hne := crcDetectsOneChangedByte (s.take k) (s.drop (k + 1)) y (byteAt s k) hy
  rwa [hs, ← List.set_eq_take_cons_drop y hk] at hne

/-! ### One changed byte of a slice that is one whole frame -/

section
variable {cap k : Nat} {f : List Byte} {fr : Frame} {y : Byte} (hok : codecDecode cap f = .ok fr f.length)
  (hk : k < f.length) (hy : y ≠ byteAt f k)
include hok hk hy

theorem codecDecode_set_marker (h : k < 2) : codecDecode cap (f.set k y) = .error .badMarker := by
  obtain ⟨⟨hlen, ⟨hm0, hm1⟩, -⟩, -⟩ := codecDecode_ok_iff.mp hok
  refine codecDecode_of_badMarker (by rw [List.length_set]; exact hlen) ?_
  rintro ⟨hm0', hm1'⟩
  obtain rfl | rfl : k = 0 ∨ k = 1 := by omega
  · exact byteAt_set_ne hk hy (hm0'.trans hm0.symm)
  · exact byteAt_set_ne hk hy (hm1'.trans hm1.symm)

theorem codecDecode_set_version (h : k = 2) : codecDecode cap (f.set k y) = .error .badVersion := by
  obtain ⟨⟨hlen, hm, hv⟩, -⟩ := codecDecode_ok_iff.mp hok
  subst h
  refine codecDecode_of_badVersion (by rw [List.length_set]; exact hlen) ?_ ?_
  · rwa [byteAt_set_of_ne (by decide), byteAt_set_of_ne (by decide)]
  · exact fun hv' => byteAt_set_ne hk hy (hv'.trans hv.symm)

omit hk hy in
theorem headerOk_set (h : 3 ≤ k) : HeaderOk (f.set k y) := by
  obtain ⟨⟨hlen, hm, hv⟩, -⟩ := codecDecode_ok_iff.mp hok
  refine ⟨by rw [List.length_set]; exact hlen, ?_, ?_⟩
  · rwa [byteAt_set_of_ne (by omega), byteAt_set_of_ne (by omega)]
  · rwa [byteAt_set_of_ne (by omega)]

/-- Behind the version and outside the length field: the body changes and not the checksum, or the checksum and not the
body. -/
theorem codecDecode_set_body_or_checksum (h : 3 ≤ k) (h10 : k ≠ 10) (h11 : k ≠ 11) :
    codecDecode cap (f.set k y) = .error .badCrc := by
  obtain ⟨-, hcap, -, hcrc, -, htotal⟩ := codecDecode_ok_iff.mp hok
  have hfield : be16 (f.set k y) 10 = be16 f 10 := be16_set_of_ne h10 h11 f y
  refine codecDecode_of_badCrc (headerOk_set hok h) (by rw [hfield]; exact hcap)
    (by rw [hfield, List.length_set, htotal]) ?_
  rw [hfield]
  by_cases hbody : k < 12 + (be16 f 10).toNat
  · rw [slice_set (by omega), be16_set_of_ne (by omega) (by omega), ← hcrc]
    refine crc16_set_ne ?_ (by rwa [byteAt_slice (by omega) hbody hk])
    rw [length_slice (by omega)]
    omega
  · rw [slice_set_of_le (Nat.not_lt.mp hbody), hcrc]
    exact (be16_set_ne hk hy (by omega)).symm

omit hok in
theorem length_field_set_ne (h : k = 10 ∨ k = 11) : (be16 (f.set k y) 10).toNat ≠ (be16 f 10).toNat :=
  fun heq => be16_set_ne hk hy h (BitVec.eq_of_toNat_eq heq)

/-- A caller that requires the frame to fill the slice rejects every changed byte (R121, last paragraph). -/
theorem total_ne_length_of_set {fr' : Frame} {total : Nat} (h : codecDecode cap (f.set k y) = .ok fr' total) :
    total ≠ f.length := by
  obtain ⟨-, -, -, -, -, hlen⟩ := codecDecode_ok_iff.mp hok
  obtain ⟨-, -, -, -, -, hlen'⟩ := codecDecode_ok_iff.mp h
  by_cases h2 : k < 2
  · rw [codecDecode_set_marker hok hk hy h2] at h
    cases h
  by_cases h3 : k = 2
  · rw [codecDecode_set_version hok hk hy h3] at h
    cases h
  by_cases hfield : k = 10 ∨ k = 11
  · have hne := length_field_set_ne hk hy hfield
    omega
  · rw [codecDecode_set_body_or_checksum hok hk hy (by omega) (mt .inl hfield) (mt .inr hfield)] at h
    cases h

end

theorem xor_shiftLeft_one_ne (b : Byte) {j : Nat} (hj : j < 8) : b ^^^ (1#8 <<< j) ≠ b := by
  have hbit : ∀ j < 8, 1#8 <<< j ≠ 0#8 := by decide
  exact fun h => hbit j hj ((BitVec.xor_right_inj b).mp (h.trans BitVec.xor_zero.symm))

/-- An encoded frame is one whole frame, of the payload's length (R110, R122). -/
theorem codecDecode_encoded {cap : Nat} {id : Byte} {q : U16} {t : U32} {p f : List Byte} (hcap : 30 ≤ cap)
    (h : codecEncode id q t p = .ok f) :
    f.length = 14 + p.length ∧ (be16 f 10).toNat = p.length ∧ codecDecode cap f = .ok (goodFrame id q t p) f.length := by
  obtain ⟨hlen, hmax, -, -, hfield, -⟩ := encodedFrameProperties.1 id q t p f h
  refine ⟨hlen, hfield, ?_⟩
  obtain ⟨hp, rfl⟩ := codecEncode_ok_iff.mp h
  rw [hlen, ← codecDecode_wire (cap := cap) (by omega) (by omega) id q t [], List.append_nil]

/-- Settles O20: the rows are those of one changed byte of a whole frame; a changed length field decides by its new value. -/
theorem singleBitCorruptionTable : Obligations.SingleBitCorruptionTable := by
  intro cap id q t p f k j hcap hf hk hj f' len
  obtain ⟨hlen, hfield, hok⟩ := codecDecode_encoded hcap hf
  obtain ⟨-, hmax, -⟩ := encodedFrameProperties.1 id q t p f hf
  have hy := xor_shiftLeft_one_ne (byteAt f k) hj
  have hheader : k = 10 ∨ k = 11 → HeaderOk f' := fun h => headerOk_set hok (by omega)
  have hlen' : f'.length = f.length := List.length_set
  refine ⟨codecDecode_set_marker hok hk hy, codecDecode_set_version hok hk hy,
    fun h3 h9 => codecDecode_set_body_or_checksum hok hk hy h3 (by omega) (by omega),
    fun h _ hover => codecDecode_of_badLength (hheader h) hover,
    fun h hlonger hfits => codecDecode_of_incomplete (hheader h) hfits (by omega),
    fun h hshorter hcrc => codecDecode_of_badCrc (hheader h) (by omega) (by omega) hcrc,
    fun h hshorter hcrc => codecDecode_of_goodCrc (hheader h) (by omega) (by omega) hcrc,
    fun h => hfield ▸ length_field_set_ne hk hy h,
    fun h12 => codecDecode_set_body_or_checksum hok hk hy (by omega) (by omega) (by omega),
    fun fr total h => hlen' ▸ total_ne_length_of_set hok hk hy h⟩

end Sys2Proof.Machine
end

section
/-! INGEST and READY_CLEAR as whole next states (R141, R146). -/

namespace Sys2Proof.Machine

theorem exec_ingest (chunk : List Byte) (s : State) :
    exec (.ingest chunk) s = .next ((ingest chunk s).handBack .nothing) := rfl

/-- Settles O23: an empty chunk is handed back at once, and BufAppend keeps the last `BUF_CAP` bytes (R43). -/
theorem ingestAppendsAndSetsTheFlag : Obligations.IngestAppendsAndSetsTheFlag := by
  refine fun chunk s hcap hlen => ⟨rfl, fun hchunk => ?_⟩
  rw [exec_ingest, ingest_of_ne_nil hchunk, State.append, bufAppend_eq_drop hcap hlen]
  rfl

theorem bufAppend_append (cap : Nat) (m : Memory) (a b : List Byte) :
    bufAppend cap m (a ++ b) = bufAppend cap (bufAppend cap m a) b := List.foldl_append

/-- Settles O24: BufAppend takes its bytes one by one, and the flag is raised when either chunk holds a byte. -/
theorem ingestChunkingDoesNotMatter : Obligations.IngestChunkingDoesNotMatter := by
  intro a b s
  have hflag : ((s.dataReady || !a.isEmpty) || !b.isEmpty) = (s.dataReady || !(a ++ b).isEmpty) := by
    cases a with
    | nil => simp
    | cons x a => simp
  simp only [performAll, exec_ingest, ingest_eq, State.handBack, bufAppend_append, hflag]

/-- Settles O25: the one update of READY_CLEAR beside its empty result. -/
theorem readyClearClearsOnlyTheFlag : Obligations.ReadyClearClearsOnlyTheFlag :=
  fun _ => rfl

end Sys2Proof.Machine
end

section
/-! FindMarker by the places where a marker stands (R142). -/

namespace Sys2Proof.Machine

/-- `AA 55` stands at offset `i`, both bytes within the buffer (R142). -/
def MarkerAt (m : Memory) (i : Nat) : Prop := m[i]? = some Config.marker0 ∧ m[i + 1]? = some Config.marker1

theorem not_markerAt_of_length_le {m : Memory} {i : Nat} (h : m.length ≤ i + 1) : ¬MarkerAt m i := by
  rintro ⟨-, h1⟩
  rw [List.getElem?_eq_none h] at h1
  cases h1

theorem markerAt_zero_iff (a b : Byte) (m : Memory) :
    MarkerAt (a :: b :: m) 0 ↔ a = Config.marker0 ∧ b = Config.marker1 := by
  simp [MarkerAt]

theorem markerAt_succ_iff (a : Byte) (m : Memory) (i : Nat) : MarkerAt (a :: m) (i + 1) ↔ MarkerAt m i := Iff.rfl

/-- A marker in what is left after a discard stands further back in the buffer. -/
theorem markerAt_drop_iff (m : Memory) (n i : Nat) : MarkerAt (m.drop n) i ↔ MarkerAt m (n + i) := by
  simp only [MarkerAt, List.getElem?_drop, Nat.add_assoc]

/-- A marker within the front part of the buffer stands there whatever follows. -/
theorem markerAt_append_left {a : Memory} {i : Nat} (h : i + 1 < a.length) (d : Memory) :
    MarkerAt (a ++ d) i ↔ MarkerAt a i := by
  rw [MarkerAt, List.getElem?_append_left (by omega), List.getElem?_append_left h, MarkerAt]

theorem findMarker_eq_none_iff (m : Memory) : findMarker m = none ↔ ∀ j, ¬MarkerAt m j := by
  induction m using findMarker.induct with
  | case1 => exact iff_of_true rfl fun j => not_markerAt_of_length_le (Nat.zero_le _)
  | case2 b => exact iff_of_true rfl fun j => not_markerAt_of_length_le (Nat.le_add_left 1 j)
  | case3 a b rest hm =>
    rw [findMarker, if_pos hm]
    exact iff_of_false (Option.some_ne_none 0) fun h => h 0 ((markerAt_zero_iff a b rest).mpr hm)
  | case4 a b rest hm ih =>
    rw [findMarker, if_neg hm, Option.map_eq_none_iff, ih,
      ← Nat.and_forall_add_one (p := fun j => ¬MarkerAt (a :: b :: rest) j), markerAt_zero_iff]
    exact (and_iff_right hm).symm

theorem findMarker_eq_some_iff (m : Memory) (i : Nat) :
    findMarker m = some i ↔ MarkerAt m i ∧ ∀ j < i, ¬MarkerAt m j := by
  induction m using findMarker.induct generalizing i with
  | case1 => exact iff_of_false nofun fun h => not_markerAt_of_length_le (Nat.zero_le _) h.1
  | case2 b => exact iff_of_false nofun fun h => not_markerAt_of_length_le (Nat.le_add_left 1 i) h.1
  | case3 a b rest hm =>
    have hzero := (markerAt_zero_iff a b rest).mpr hm
    rw [findMarker, if_pos hm, Option.some.injEq]
    constructor
    · rintro rfl
      exact ⟨hzero, nofun⟩
    · rintro ⟨-, hleast⟩
      exact (Nat.eq_zero_of_not_pos fun hpos => hleast 0 hpos hzero).symm
  | case4 a b rest hm ih =>
    rw [findMarker, if_neg hm]
    cases i with
    | zero => simp [markerAt_zero_iff, hm]
    | succ i =>
      have hbefore : (∀ j < i + 1, ¬MarkerAt (a :: b :: rest) j) ↔ ∀ j < i, ¬MarkerAt (b :: rest) j := by
        rw [Nat.forall_lt_succ_left, markerAt_zero_iff, and_iff_right hm]
        rfl
      rw [hbefore, markerAt_succ_iff, ← ih]
      simp

theorem findMarker_eq_zero_iff_markerAt (m : Memory) : findMarker m = some 0 ↔ MarkerAt m 0 := by
  rw [findMarker_eq_some_iff]
  exact and_iff_left nofun

/-- Settles O28: the two equivalences, for the offset found and for none. -/
theorem findMarkerFindsTheFirst : Obligations.FindMarkerFindsTheFirst :=
  fun m => ⟨fun i => (findMarker_eq_some_iff m i).trans and_assoc, findMarker_eq_none_iff m⟩

end Sys2Proof.Machine
end

section
/-! SCAN_STEP before a candidate stands at the front: noise (R143 step 1). -/

namespace Sys2Proof.Machine

theorem exec_scanStep (s : State) : exec .scanStep s = .next ((scanStep s).2.handBack (.scanned (scanStep s).1)) := rfl

/-- The next state of a SCAN_STEP whose outcome is known. -/
theorem exec_scanStep_of_eq {s s' : State} {r : ScanResult} (h : scanStep s = (r, s')) :
    exec .scanStep s = .next (s'.handBack (.scanned r)) := by
  rw [exec_scanStep, h]

/-- An empty buffer or a lone `AA` is not enough to decide (R143 step 1). -/
theorem scanStep_of_empty_or_marker0 {s : State} (h : s.rx = [] ∨ s.rx = [Config.marker0]) : scanStep s = (.wait, s) := by
  obtain h | h := h <;> simp [scanStep, findMarker, scanNoMarker, State.rxLen, byteAt, h]

/-- What is left when the `a.length` oldest bytes are discarded (R45). -/
theorem State.discard_append {s : State} {a b : List Byte} (h : s.rx = a ++ b) :
    s.discard a.length = { s with rx := b } := by
  rw [State.discard, h, bufDiscard, List.drop_left]

/-- Noise that ends in `AA` goes up to that byte, which may begin a marker (R143 step 1). -/
theorem scanStep_of_noise_marker0 {s : State} {noise : List Byte} (hnone : findMarker s.rx = none) (hne : noise ≠ [])
    (hrx : s.rx = noise ++ [Config.marker0]) :
    scanStep s = (.discard .noise noise.length, { s with rx := [Config.marker0] }) := by
  rw [← State.discard_append hrx, scanStep, hnone]
  simp [scanNoMarker, State.rxLen, hrx, byteAt, hne]

/-- Other noise goes whole (R143 step 1). -/
theorem scanStep_of_noise {s : State} {noise : List Byte} {last : Byte} (hnone : findMarker s.rx = none)
    (hlast : last ≠ Config.marker0) (hrx : s.rx = noise ++ [last]) :
    scanStep s = (.discard .noise (noise.length + 1), { s with rx := [] }) := by
  rw [← State.discard_append (hrx.trans (List.append_nil _).symm), scanStep, hnone]
  simp [scanNoMarker, State.rxLen, hrx, byteAt, hlast]

/-- Garbage before the first marker goes at once (R143 step 1). -/
theorem scanStep_of_garbage {s : State} {off : Nat} (h : findMarker s.rx = some off) (hpos : 0 < off) :
    scanStep s = (.discard .noise off, s.discard off) := by
  rw [scanStep, h]
  exact if_pos hpos

/-- Settles O29: WAIT, or one of the two discards, by the last byte. -/
theorem scanWithoutMarkerKeepsATrailingAA : Obligations.ScanWithoutMarkerKeepsATrailingAA := by
  intro s hnone
  have hnone : findMarker s.rx = none := (findMarker_eq_none_iff s.rx).mpr hnone
  exact ⟨fun h => exec_scanStep_of_eq (scanStep_of_empty_or_marker0 h),
    fun noise hne hrx => exec_scanStep_of_eq (scanStep_of_noise_marker0 hnone hne hrx),
    fun noise last hrx hlast => exec_scanStep_of_eq (scanStep_of_noise hnone hlast hrx)⟩

/-- Settles O30: the garbage ends where the first marker stands. -/
theorem scanDiscardsGarbageBeforeTheMarker : Obligations.ScanDiscardsGarbageBeforeTheMarker := by
  intro s garbage rest hne hrx hfirst
  have hmarker : findMarker s.rx = some garbage.length := by
    rw [findMarker_eq_some_iff]
    exact ⟨by simp [MarkerAt, hrx], hfirst⟩
  rw [exec_scanStep_of_eq (scanStep_of_garbage hmarker (List.length_pos_of_ne_nil hne)), State.discard_append hrx]
  rfl

end Sys2Proof.Machine
end

section
/-! SCAN_STEP with a candidate at the front is DECODE of the buffer (R143 steps 2 to 7, R149). -/

namespace Sys2Proof.Machine

/-- What a SCAN_STEP makes of DECODE's answer for the whole buffer: it waits for what is incomplete, drops the first byte
of a rejected candidate and counts it, and takes a frame out (R149). BAD_MARKER is not answered where a marker stands in
front (`codecDecode_ne_badMarker`). -/
def scanOfDecode (s : State) : DecodeResult → ScanResult × State
  | .ok f total => (.frame f, (s.discard total).countOk)
  | .error .badVersion => (.discard .version 1, s.countUnsupported.discard 1)
  | .error .badLength => (.discard .length 1, s.countLenErr.discard 1)
  | .error .badCrc => (.discard .crc 1, s.countCrcErr.discard 1)
  | .error .tooShort => (.wait, s)
  | .error .incomplete => (.wait, s)
  | .error .badMarker => (.wait, s)

/-- A buffer of at least 14 bytes that begins with a marker and the version is a good header (R112). -/
theorem headerOk_of_marker {m : Memory} (hm : findMarker m = some 0) (hlen : 14 ≤ m.length)
    (hv : byteAt m 2 = Config.version) : HeaderOk m := by
  obtain ⟨rest, rfl⟩ := (findMarker_zero_iff m).mp hm
  exact ⟨hlen, ⟨rfl, rfl⟩, hv⟩

theorem codecDecode_ne_badMarker {m : Memory} (hm : findMarker m = some 0) (cap : Nat) :
    codecDecode cap m ≠ .error .badMarker := by
  obtain ⟨rest, rfl⟩ := (findMarker_zero_iff m).mp hm
  intro h
  obtain ⟨⟨⟩, -⟩ | ⟨-, -, hbad⟩ | ⟨-, -, -, ⟨⟨⟩, -⟩ | ⟨-, ⟨⟨⟩, -⟩ | ⟨-, ⟨⟨⟩, -⟩ | ⟨-, ⟨⟨⟩, -⟩ | ⟨⟨⟩, -⟩⟩⟩⟩⟩ :=
    codecDecode_cases h
  exact hbad.elim (absurd rfl) (absurd rfl)

/-- The scan parses the frame out of its own bytes, DECODE out of the whole buffer: the same record (R113). -/
theorem parseFrame_slice {m : Memory} (h : 14 + (be16 m 10).toNat ≤ m.length) :
    parseFrame (slice m 0 (14 + (be16 m 10).toNat)) = parseFrame m := by
  have hsplit := List.take_append_drop (14 + (be16 m 10).toNat) m
  have hfield : be16 (m.take (14 + (be16 m 10).toNat)) 10 = be16 m 10 := by
    conv_rhs => rw [← hsplit]
    exact (be16_append_left (by simp; omega)).symm
  rw [slice, List.drop_zero]
  conv_rhs => rw [← hsplit]
  exact (parseFrame_append (by simp [hfield, h]) _).symm

/-- With a marker at the front, a SCAN_STEP is DECODE of the buffer, outcome by outcome (R149). -/
theorem scanStep_eq_decode {s : State} (hm : findMarker s.rx = some 0) :
    scanStep s = scanOfDecode s (codecDecode s.cfg.bufCap s.rx) := by
  rw [scanStep_of_marker hm]
  obtain ⟨hr, hs, hshort | ⟨hlen, hv, hcap, hinc⟩⟩ | ⟨hr, hs, hlen, hv⟩ | ⟨hr, hs, hlen, hv, hcap⟩ |
    ⟨hr, hs, hv, hcap, htotal, hcrc⟩ | ⟨hr, hs, hv, hcap, htotal, hcrc⟩ := scanCandidate_cases (s := s) rfl
  · rw [codecDecode_of_short hshort]
    exact Prod.ext hr hs
  · rw [codecDecode_of_incomplete (headerOk_of_marker hm hlen hv) hcap hinc]
    exact Prod.ext hr hs
  · obtain ⟨rest, hrx⟩ := (findMarker_zero_iff s.rx).mp hm
    rw [codecDecode_of_badVersion hlen (by rw [hrx]; exact ⟨rfl, rfl⟩) hv]
    exact Prod.ext hr hs
  · rw [codecDecode_of_badLength (headerOk_of_marker hm hlen hv) hcap]
    exact Prod.ext hr hs
  · rw [codecDecode_of_badCrc (headerOk_of_marker hm (Nat.le_of_add_right_le htotal) hv) hcap htotal hcrc]
    exact Prod.ext hr hs
  · rw [codecDecode_of_goodCrc (headerOk_of_marker hm (Nat.le_of_add_right_le htotal) hv) hcap htotal hcrc,
      ← parseFrame_slice htotal]
    exact Prod.ext hr hs

/-- The next state of a SCAN_STEP on a buffer that begins with a marker, from DECODE's answer. -/
theorem exec_scanStep_of_decode {s : State} {d : DecodeResult} (hm : findMarker s.rx = some 0)
    (hd : codecDecode s.cfg.bufCap s.rx = d) :
    exec .scanStep s = .next ((scanOfDecode s d).2.handBack (.scanned (scanOfDecode s d).1)) := by
  rw [exec_scanStep, scanStep_eq_decode hm, hd]

/-- Settles O31: DECODE answers TOO_SHORT or INCOMPLETE. -/
theorem scanWaitsForAPartialFrame : Obligations.ScanWaitsForAPartialFrame := by
  intro s rest hrx
  have hm : findMarker s.rx = some 0 := (findMarker_zero_iff s.rx).mpr ⟨rest, hrx⟩
  exact ⟨fun hshort => exec_scanStep_of_decode hm (codecDecode_of_short hshort),
    fun hlen hv hcap hinc =>
      exec_scanStep_of_decode hm (codecDecode_of_incomplete (headerOk_of_marker hm hlen hv) hcap hinc)⟩

/-- Settles O32: DECODE answers BAD_VERSION, BAD_LENGTH or BAD_CRC. -/
theorem scanRejectsOneByteAndCountsOnce : Obligations.ScanRejectsOneByteAndCountsOnce := by
  intro s rest hrx hlen
  have hm : findMarker s.rx = some 0 := (findMarker_zero_iff s.rx).mpr ⟨rest, hrx⟩
  have hdrop : bufDiscard s.rx 1 = Config.marker1 :: rest := by rw [hrx]; rfl
  refine ⟨fun hv => ?_, fun hv hcap => ?_, fun hv hcap htotal hcrc => ?_⟩ <;> rw [← hdrop]
  · exact exec_scanStep_of_decode hm (codecDecode_of_badVersion hlen (by rw [hrx]; exact ⟨rfl, rfl⟩) hv)
  · exact exec_scanStep_of_decode hm (codecDecode_of_badLength (headerOk_of_marker hm hlen hv) hcap)
  · exact exec_scanStep_of_decode hm (codecDecode_of_badCrc (headerOk_of_marker hm hlen hv) hcap htotal hcrc)

/-- Settles O33: the frame's own bytes leave the buffer, and `stat_ok` counts them. -/
theorem scanYieldsAValidFrame : Obligations.ScanYieldsAValidFrame := by
  intro s id q t p rest lenField crc hp hcap hrx
  rw [exec_scanStep_of_eq (scanStep_of_goodFrame hrx hp hcap), ← length_wireBytes id q t p crc, State.discard_append hrx]
  rfl

/-- Settles O34: each result of the scan comes from the one answer of DECODE that R149 pairs with it. -/
theorem scanAgreesWithDecode : Obligations.ScanAgreesWithDecode := by
  intro s hm d r
  have hr : r = (scanOfDecode s d).1 := congrArg Prod.fst (scanStep_eq_decode hm)
  have hmarker : d ≠ .error .badMarker := codecDecode_ne_badMarker hm _
  clear_value d r
  subst hr
  cases d with
  | ok f total => simp [scanOfDecode]
  | error e =>
    cases e with
    | badMarker => exact absurd rfl hmarker
    | tooShort | badVersion | badLength | incomplete | badCrc => simp [scanOfDecode]

/-- A SCAN_STEP waits and keeps the state, or shortens the buffer from the front (R147). -/
theorem scanStep_progress {s s' : State} {r : ScanResult} (h : scanStep s = (r, s')) :
    (r = .wait ∧ s' = s) ∨
    (r ≠ .wait ∧ ∃ k, 1 ≤ k ∧ k ≤ s.rxLen ∧ s'.rx = s.rx.drop k ∧ ∀ why n, r = .discard why n → n = k) := by
  have hone : ∀ {n}, 14 ≤ n → 1 ≤ n := fun h => Nat.le_trans (by decide) h
  obtain ⟨rfl, rfl⟩ | ⟨n, rfl, hn, hle, rfl⟩ | ⟨rfl, hle, rfl⟩ | ⟨rfl, hle, rfl⟩ | ⟨rfl, hle, rfl⟩ |
    ⟨f, n, rfl, hn, hle, rfl⟩ := scanStep_shape h
  · exact .inl ⟨rfl, rfl⟩
  · exact .inr ⟨nofun, n, hn, hle, rfl, by rintro _ _ ⟨⟩; rfl⟩
  · exact .inr ⟨nofun, 1, Nat.le_refl 1, hone hle, rfl, by rintro _ _ ⟨⟩; rfl⟩
  · exact .inr ⟨nofun, 1, Nat.le_refl 1, hone hle, rfl, by rintro _ _ ⟨⟩; rfl⟩
  · exact .inr ⟨nofun, 1, Nat.le_refl 1, hone hle, rfl, by rintro _ _ ⟨⟩; rfl⟩
  · exact .inr ⟨nofun, n, hone hn, hle, rfl, nofun⟩

/-- Settles O35: the result is handed back as it is. -/
theorem scanMakesProgress : Obligations.ScanMakesProgress := by
  intro s t ht
  rcases hs : scanStep s with ⟨r, s'⟩
  cases (exec_scanStep_of_eq hs).symm.trans ht
  obtain ⟨rfl, rfl⟩ | ⟨hr, k, hpos, hle, hrx, hcount⟩ := scanStep_progress hs
  · exact .inl ⟨rfl, rfl⟩
  · exact .inr ⟨fun h => hr (Returned.scanned.inj h), k, hpos, hle, hrx,
      fun why n h => hcount why n (Returned.scanned.inj h)⟩

end Sys2Proof.Machine
end

section
/-! The drain loops, one equation for each outcome of a SCAN_STEP, and their one induction (R144, R145, R147). -/

namespace Sys2Proof.Machine

/-! ### What was handed back last is not read -/

/-- No operation reads the last result, and each hands back its own (log entry 3). -/
theorem exec_handBack (i : Instr) (s : State) (r : Returned) : exec i (s.handBack r) = exec i s := by
  obtain ⟨t, ht⟩ := exec_isNext i s
  refine (portIsNotReadByOperations i s t s.requests r ht).trans ?_
  rw [ht, ← exec_requests ht]

theorem scanIgnores_handBack (r : Returned) : ScanIgnores fun s => s.handBack r :=
  ⟨fun _ => rfl, fun _ => rfl, fun _ _ => rfl, fun _ => rfl, fun _ => rfl, fun _ => rfl, fun _ => rfl⟩

/-- A state waits whatever was handed back last. -/
theorem waits_handBack_of_wait {s : State} (h : scanStep s = (.wait, s)) (r : Returned) : (s.handBack r).waits = true := by
  rw [State.waits, (scanIgnores_handBack r).scanStep s, h]
  rfl

/-! ### Induction along the scan -/

/-- A WAIT leaves the state as it is (R147). -/
theorem scanStep_of_wait {s : State} (h : (scanStep s).1 = .wait) : scanStep s = (.wait, s) := by
  obtain ⟨hr, hs⟩ | ⟨hr, -⟩ := scanStep_progress (s := s) rfl
  · exact Prod.ext hr hs
  · exact absurd h hr

/-- A SCAN_STEP that does not wait shortens the buffer (R147). -/
theorem rxLen_lt_of_scanStep {s s' : State} {r : ScanResult} (h : scanStep s = (r, s')) (hr : r ≠ .wait) :
    s'.rxLen < s.rxLen := by
  obtain ⟨hwait, -⟩ | ⟨-, k, hpos, hle, hrx, -⟩ := scanStep_progress h
  · exact absurd hwait hr
  · simp only [State.rxLen, hrx, List.length_drop] at *
    omega

/-- What holds of every state that waits, and of every state that a SCAN_STEP leads on from when it holds of the next one,
holds of every state. -/
theorem scan_induction {P : State → Prop} (wait : ∀ s, scanStep s = (.wait, s) → P s)
    (discard : ∀ s s' why n, scanStep s = (.discard why n, s') → P s' → P s)
    (frame : ∀ s s' f, scanStep s = (.frame f, s') → P s' → P s) (s : State) : P s := by
  induction hlen : s.rxLen using Nat.strong_induction_on generalizing s with
  | _ len ih =>
    subst hlen
    rcases hs : scanStep s with ⟨_ | ⟨why, n⟩ | f, s'⟩
    · exact wait s (scanStep_of_wait (congrArg Prod.fst hs))
    · exact discard s s' why n hs (ih _ (rxLen_lt_of_scanStep hs nofun) s' rfl)
    · exact frame s s' f hs (ih _ (rxLen_lt_of_scanStep hs nofun) s' rfl)

/-! ### DRAIN_NEXT -/

theorem exec_drainNext_of_eq {s s' : State} {r : Option Frame} (h : drainNext s = (r, s')) :
    exec .drainNext s = .next (s'.handBack (.next r)) := by
  rw [exec, execDrainNext, h]

/-- DRAIN_NEXT is IDLE at a WAIT (R144). -/
theorem drainNext_of_wait {s s' : State} (h : scanStep s = (.wait, s')) : drainNext s = (none, s') := by
  rw [drainNext, drainNextFuel, h]

/-- Where DRAIN_NEXT is IDLE, a SCAN_STEP would WAIT (R144). -/
theorem scanStep_of_drainNext_idle {s t : State} (h : drainNext s = (none, t)) : scanStep t = (.wait, t) := by
  induction s using scan_induction with
  | wait s hs =>
    cases (drainNext_of_wait hs).symm.trans h
    exact hs
  | discard s s' why n hs ih => exact ih ((drainNext_of_discard hs).symm.trans h)
  | frame s s' f hs ih => cases (drainNext_of_frame hs).symm.trans h

/-- A frame leaves the buffer shorter. -/
theorem rxLen_lt_of_drainNext {s t : State} {f : Frame} (h : drainNext s = (some f, t)) : t.rxLen < s.rxLen := by
  induction s using scan_induction with
  | wait s hs => cases (drainNext_of_wait hs).symm.trans h
  | discard s s' why n hs ih => exact (ih ((drainNext_of_discard hs).symm.trans h)).trans (rxLen_lt_of_discard hs)
  | frame s s' f' hs ih =>
    cases (drainNext_of_frame hs).symm.trans h
    exact rxLen_lt_of_scanStep hs nofun

/-- Settles O36: the three outcomes of a SCAN_STEP. -/
theorem drainNextIsTheScanLoop : Obligations.DrainNextIsTheScanLoop := by
  refine fun s => ⟨fun h => ?_, fun f h => ?_, fun why n h => ?_⟩
  · exact exec_drainNext_of_eq (drainNext_of_wait (scanStep_of_wait h))
  · exact exec_drainNext_of_eq (drainNext_of_frame (Prod.ext h rfl))
  · rw [exec, execDrainNext, drainNext_of_discard (Prod.ext h rfl)]
    rfl

/-- Settles O38: IDLE is reached at a WAIT, which keeps the state. -/
theorem idleIsStable : Obligations.IdleIsStable := by
  intro s t ht hidle
  rcases hs : drainNext s with ⟨r, s'⟩
  cases (exec_drainNext_of_eq hs).symm.trans ht
  cases hidle
  have hwait := scanStep_of_drainNext_idle hs
  refine ⟨waits_handBack_of_wait hwait _, ?_⟩
  rw [exec_handBack, exec_drainNext_of_eq (drainNext_of_wait hwait)]

/-! ### DRAIN -/

theorem exec_drain (s : State) : exec .drain s = .next ((drain s).2.handBack (.frames (drain s).1)) := rfl

/-- More fuel than the buffer has bytes makes no difference to DRAIN either. -/
theorem drainFuel_eq {n k : Nat} {s : State} (hn : s.rxLen < n) (hk : s.rxLen < k) : drainFuel n s = drainFuel k s := by
  induction n generalizing k s with
  | zero => omega
  | succ n ih =>
    obtain ⟨k, rfl⟩ : ∃ j, k = j + 1 := ⟨k - 1, by omega⟩
    rcases hs : drainNext s with ⟨_ | f, s'⟩
    · simp only [drainFuel, hs]
    · have hlt := rxLen_lt_of_drainNext hs
      simp only [drainFuel, hs, ih (s := s') (k := k) (by omega) (by omega)]

/-- DRAIN yields the frame of DRAIN_NEXT before what it yields from there (R145). -/
theorem drain_of_next {s s' : State} {f : Frame} (h : drainNext s = (some f, s')) :
    drain s = (f :: (drain s').1, (drain s').2) := by
  have hlt := rxLen_lt_of_drainNext h
  rw [drain, drainFuel, h, drain]
  simp only [drainFuel_eq hlt (Nat.lt_succ_self s'.rxLen)]

theorem drain_of_wait {s s' : State} (h : scanStep s = (.wait, s')) : drain s = ([], s') :=
  drain_of_idle (drainNext_of_wait h)

theorem drain_of_frame {s s' : State} {f : Frame} (h : scanStep s = (.frame f, s')) :
    drain s = (f :: (drain s').1, (drain s').2) :=
  drain_of_next (drainNext_of_frame h)

theorem drain_of_discard {s s' : State} {why : Reason} {n : Nat} (h : scanStep s = (.discard why n, s')) :
    drain s = drain s' := by
  have heq := drainNext_of_discard h
  rcases hs : drainNext s' with ⟨_ | f, t⟩
  · rw [drain_of_idle hs, drain_of_idle (heq.trans hs)]
  · rw [drain_of_next hs, drain_of_next (heq.trans hs)]

/-- DRAIN ends where a SCAN_STEP would WAIT (R145). -/
theorem scanStep_drain (s : State) : scanStep (drain s).2 = (.wait, (drain s).2) := by
  induction s using scan_induction with
  | wait s hs => rwa [drain_of_wait hs]
  | discard s s' why n hs ih => rwa [drain_of_discard hs]
  | frame s s' f hs ih => rwa [drain_of_frame hs]

/-- What a buffer that waits holds (R145). -/
theorem rx_of_wait {s s' : State} (h : scanStep s = (.wait, s')) :
    s.rx = [] ∨ s.rx = [Config.marker0] ∨ ∃ rest, s.rx = Config.marker0 :: Config.marker1 :: rest := by
  rcases hm : findMarker s.rx with _ | off
  · rw [scanStep, hm] at h
    obtain ⟨-, -, hrx⟩ | ⟨n, hr, -⟩ | ⟨n, hr, -⟩ := scanNoMarker_cases h
    · exact hrx.imp_right .inl
    · cases hr
    · cases hr
  · cases off with
    | zero => exact .inr (.inr ((findMarker_zero_iff s.rx).mp hm))
    | succ off => cases (scanStep_of_garbage hm (Nat.succ_pos off)).symm.trans h

/-- Settles O37: the loop by the outcome of DRAIN_NEXT, and where it ends. -/
theorem drainIsTheDrainNextLoop : Obligations.DrainIsTheDrainNextLoop := by
  constructor
  · intro s u hu
    rcases hs : drainNext s with ⟨r, s'⟩
    cases (exec_drainNext_of_eq hs).symm.trans hu
    refine ⟨fun hidle => ?_, fun f hf => ⟨_, (drain s').1, by rw [exec_handBack, exec_drain], rfl, ?_⟩⟩
    · cases hidle
      rw [exec_drain, drain_of_idle hs]
      rfl
    · cases hf
      rw [exec_drain, drain_of_next hs]
      rfl
  · rintro s t ⟨⟩
    exact ⟨waits_handBack_of_wait (scanStep_drain s) _, rx_of_wait (s := (drain s).2) (scanStep_drain s)⟩

/-! ### DRAIN as one run of SCAN_STEPs -/

theorem scanRun_of_wait {s s' : State} (h : scanStep s = (.wait, s')) (n : Nat) : scanRun (n + 1) s = ([.wait], s') := by
  rw [scanRun, h]

/-- A run goes on after every result but WAIT. -/
theorem scanRun_of_ne_wait {s s' : State} {r : ScanResult} (h : scanStep s = (r, s')) (hr : r ≠ .wait) (n : Nat) :
    scanRun (n + 1) s = (r :: (scanRun n s').1, (scanRun n s').2) := by
  rw [scanRun, h]
  cases r with
  | wait => exact absurd rfl hr
  | discard why k => rfl
  | frame f => rfl

theorem length_scanRun_le (n : Nat) (s : State) : (scanRun n s).1.length ≤ n := by
  induction n generalizing s with
  | zero => exact Nat.le_refl 0
  | succ n ih =>
    rcases hs : scanStep s with ⟨r, s'⟩
    by_cases hr : r = .wait
    · subst hr
      rw [scanRun_of_wait hs]
      exact Nat.le_add_left 1 n
    · rw [scanRun_of_ne_wait hs hr]
      exact Nat.succ_le_succ (ih s')

/-- With more SCAN_STEPs allowed than the buffer has bytes, the run ends in a WAIT and is the DRAIN (R147, D27). -/
theorem scanRun_eq_drain {n : Nat} {s : State} (hn : s.rxLen < n) :
    (scanRun n s).1.getLast? = some .wait ∧ drain s = (framesOf (scanRun n s).1, (scanRun n s).2) := by
  induction n generalizing s with
  | zero => omega
  | succ n ih =>
    rcases hs : scanStep s with ⟨_ | ⟨why, k⟩ | f, s'⟩
    · rw [scanRun_of_wait hs, drain_of_wait hs]
      exact ⟨rfl, rfl⟩
    · have hlt := rxLen_lt_of_scanStep hs nofun
      obtain ⟨hlast, hdrain⟩ := ih (s := s') (by omega)
      rw [scanRun_of_ne_wait hs nofun, drain_of_discard hs, hdrain, List.getLast?_cons, hlast]
      exact ⟨rfl, rfl⟩
    · have hlt := rxLen_lt_of_scanStep hs nofun
      obtain ⟨hlast, hdrain⟩ := ih (s := s') (by omega)
      rw [scanRun_of_ne_wait hs nofun, drain_of_frame hs, hdrain, List.getLast?_cons, hlast]
      exact ⟨rfl, rfl⟩

/-- Settles O39: the run of `rx_len + 1` SCAN_STEPs. -/
theorem drainIsABoundedRunOfScanSteps : Obligations.DrainIsABoundedRunOfScanSteps := by
  intro s run
  obtain ⟨hlast, hdrain⟩ := scanRun_eq_drain (Nat.lt_succ_self s.rxLen)
  refine ⟨length_scanRun_le _ s, hlast, ?_⟩
  rw [exec_drain, hdrain]
  rfl

end Sys2Proof.Machine
end

section
/-! INGEST and then DRAIN: a frame row, a frame in two parts, many frames, and noise (R148). -/

namespace Sys2Proof.Machine

/-- An INGEST and then a DRAIN, as one next state. -/
theorem performAll_ingest_drain {chunk : List Byte} {s s' : State} {fs : List Frame}
    (h : drain (ingest chunk s) = (fs, s')) : performAll [.ingest chunk, .drain] s = some (s'.handBack (.frames fs)) := by
  simp only [performAll, exec_ingest, exec_handBack, exec_drain, h]

/-- The first operation of a sequence replaces what was handed back before it. -/
theorem performAll_cons_handBack (i : Instr) (is : List Instr) (s : State) (r : Returned) :
    performAll (i :: is) (s.handBack r) = performAll (i :: is) s := by
  rw [performAll, exec_handBack, performAll]

/-- INGEST into an empty buffer of a chunk that fits. -/
theorem ingest_of_empty {chunk : List Byte} {s : State} (hrx : s.rx = []) (hne : chunk ≠ [])
    (hcap : chunk.length ≤ s.cfg.bufCap) : ingest chunk s = { s with rx := chunk, dataReady := true } := by
  rw [ingest_of_room hne (by simpa [hrx] using hcap), hrx, List.nil_append]

/-- Settles O43: a frame row is the receipt of its wire bytes. -/
theorem frameRowsAreIngestThenDrain : Obligations.FrameRowsAreIngestThenDrain := by
  intro id q t p c s both
  have hrow : ∀ m, both m = _ := fun m => performAll_ingest_drain rfl
  exact ⟨⟨_, rfl, hrow _⟩, ⟨_, rfl, hrow _⟩, ⟨_, rfl, hrow _⟩, ⟨_, rfl, hrow _⟩, ⟨_, rfl, hrow _⟩, ⟨_, rfl, hrow _⟩⟩

theorem State.withRx_self {s : State} {m : Memory} (h : s.rx = m) : { s with rx := m } = s := by rw [← h]

/-! ### A frame in two parts -/

/-- A proper, non-empty front part of a frame that fits the capacity waits for the rest `d` (R143 steps 1, 2 and 5). -/
theorem scanStep_of_partialFrame {s : State} {id : Byte} {q : U16} {t : U32} {p d : List Byte} {c : U16}
    (hrx : s.rx ++ d = wireBytes id q t p c) (hne : s.rx ≠ []) (hd : d ≠ []) (hp : p.length < 2 ^ 16)
    (hcap : 14 + p.length ≤ s.cfg.bufCap) : scanStep s = (.wait, s) := by
  have hwhole : s.rx.length + d.length = 14 + p.length := by rw [← List.length_append, hrx, length_wireBytes]
  have hpart : s.rx.length < 14 + p.length := by
    have := List.length_pos_of_ne_nil hd
    omega
  by_cases hone : s.rx.length ≤ 1
  · refine scanStep_of_empty_or_marker0 (.inr ?_)
    obtain ⟨b, hb⟩ := List.length_eq_one_iff.mp (Nat.le_antisymm hone (List.length_pos_of_ne_nil hne))
    rw [hb, wireBytes_eq] at hrx
    rw [hb, (List.cons.inj hrx).1]
  have hm : findMarker s.rx = some 0 := by
    rw [findMarker_eq_zero_iff_markerAt, ← markerAt_append_left (by omega) d, hrx, wireBytes_eq]
    exact ⟨rfl, rfl⟩
  rw [scanStep_eq_decode hm]
  by_cases hshort : s.rx.length < 14
  · rw [codecDecode_of_short hshort]
    rfl
  · have hheader : HeaderOk s.rx := by
      rw [← headerOk_append_iff (Nat.le_of_not_lt hshort) d, hrx, ← List.append_nil (wireBytes ..)]
      exact headerOk_wire ..
    have hfield : (be16 s.rx 10).toNat = p.length := by
      rw [← be16_append_left (t := d) (by omega), hrx, ← List.append_nil (wireBytes ..), wire_length_toNat hp]
    rw [codecDecode_of_incomplete hheader (by rw [hfield]; exact hcap) (by rw [hfield]; exact hpart)]
    rfl

/-- Settles O40: the first part waits, and the second makes the frame whole. -/
theorem partialFrameStability : Obligations.PartialFrameStability := by
  intro s id q t p k crc f hrx hp hcap hk hkf
  have hlen : f.length = 14 + p.length := length_wireBytes ..
  have hsplit : f.take k ++ f.drop k = f := List.take_append_drop k f
  have hfirst : f.take k ≠ [] := List.ne_nil_of_length_pos (by rw [List.length_take]; omega)
  have hsecond : f.drop k ≠ [] := List.ne_nil_of_length_pos (by rw [List.length_drop]; omega)
  have hingest₁ : ingest (f.take k) s = { s with rx := f.take k, dataReady := true } :=
    ingest_of_empty hrx hfirst (by rw [List.length_take]; omega)
  have hwait : scanStep { s with rx := f.take k, dataReady := true } = (.wait, _) :=
    scanStep_of_partialFrame hsplit hfirst hsecond hp (hlen ▸ hcap)
  have hingest₂ : ingest (f.drop k) { s with rx := f.take k, dataReady := true } =
      { s with rx := f, dataReady := true } := by
    rw [ingest_of_room hsecond (by rw [← List.length_append, hsplit]; exact hcap), hsplit]
  have hdrain : drain { s with rx := f, dataReady := true } = ([goodFrame id q t p], _) :=
    drain_of_goodFrame rfl hp (hlen ▸ hcap)
  have hempty : bufDiscard f (14 + p.length) = s.rx := by rw [bufDiscard, ← hlen, List.drop_length, hrx]
  refine ⟨_, _, performAll_ingest_drain (by rw [hingest₁, drain_of_wait hwait]), rfl,
    (performAll_cons_handBack ..).trans (performAll_ingest_drain (by rw [hingest₂, hdrain])), ?_⟩
  rw [State.discard, hempty]
  rfl

/-! ### Many frames -/

/-- The bytes of a frame with its right checksum, its fields given together. -/
def goodBytes (w : Byte × U16 × U32 × List Byte) : List Byte :=
  wireBytes w.1 w.2.1 w.2.2.1 w.2.2.2 (frameCrc w.1 w.2.1 w.2.2.1 w.2.2.2)

/-- The record of that frame. -/
def goodRecord (w : Byte × U16 × U32 × List Byte) : Frame := goodFrame w.1 w.2.1 w.2.2.1 w.2.2.2

/-- Frames with right checksums, one behind the other, are yielded one by one and counted (R148 item 3). -/
theorem drain_of_goodFrames (ws : List (Byte × U16 × U32 × List Byte)) {s : State} (hrx : s.rx = ws.flatMap goodBytes)
    (hp : ∀ w ∈ ws, w.2.2.2.length < 2 ^ 16) (hcap : s.rx.length ≤ s.cfg.bufCap)
    (hcount : s.statOk + ws.length ≤ counterMax s.cfg) :
    drain s = (ws.map goodRecord, { s with rx := [], statOk := s.statOk + ws.length }) := by
  induction ws generalizing s with
  | nil =>
    rw [drain_of_wait (scanStep_of_empty_or_marker0 (.inl hrx))]
    exact Prod.ext rfl (State.withRx_self hrx).symm
  | cons w ws ih =>
    rw [List.flatMap_cons] at hrx
    have hwlen : (goodBytes w).length = 14 + w.2.2.2.length := length_wireBytes ..
    have hrxlen : s.rx.length = (goodBytes w).length + (ws.flatMap goodBytes).length := by rw [hrx, List.length_append]
    rw [List.length_cons] at hcount
    have hscan := scanStep_of_goodFrame hrx (hp w List.mem_cons_self) (by omega)
    rw [← hwlen, State.discard_append hrx] at hscan
    have hok : satInc s.cfg s.statOk = s.statOk + 1 := satInc_of_lt (by omega)
    rw [drain_of_frame hscan, State.countOk]
    simp only [hok]
    rw [ih rfl (fun v hv => hp v (List.mem_cons_of_mem w hv)) (by simp only; omega) (by simp only; omega)]
    simp only [List.map_cons, List.length_cons, Nat.add_assoc, Nat.add_comm 1]
    rfl

/-- Settles O41: the INGEST has room for all the frames, and the DRAIN takes them one by one. -/
theorem multiFrameDrain : Obligations.MultiFrameDrain := by
  intro s ws crcOf bytes hrx hne hp hcap hcount
  have hbytes : bytes ≠ [] := by
    obtain ⟨w, ws, rfl⟩ := List.exists_cons_of_ne_nil hne
    exact List.cons_ne_nil _ _
  have hdrain := drain_of_goodFrames ws (s := { s with rx := bytes, dataReady := true }) rfl hp hcap
    (Nat.le_sub_one_of_lt hcount)
  rw [performAll_ingest_drain (by rw [ingest_of_empty hrx hbytes hcap, hdrain]), ← hrx]
  rfl

/-! ### Noise -/

/-- A buffer that holds no marker is drained to its trailing `AA`, if it ends in one (R148 item 1). -/
theorem drain_of_noMarker {s : State} (hnone : findMarker s.rx = none) :
    drain s = ([], { s with rx := if s.rx.getLast? = some Config.marker0 then [Config.marker0] else [] }) := by
  have hempty : ∀ u : State, u.rx = [] → drain u = ([], u) := fun u hu =>
    drain_of_wait (scanStep_of_empty_or_marker0 (.inl hu))
  have hmarker0 : ∀ u : State, u.rx = [Config.marker0] → drain u = ([], u) := fun u hu =>
    drain_of_wait (scanStep_of_empty_or_marker0 (.inr hu))
  obtain hrx | ⟨noise, last, hrx⟩ := List.eq_nil_or_concat s.rx
  · rw [hempty s hrx, hrx, if_neg nofun, State.withRx_self hrx]
  rw [List.concat_eq_append] at hrx
  rw [hrx, List.getLast?_concat]
  by_cases hlast : last = Config.marker0
  · subst hlast
    rw [if_pos rfl]
    by_cases hnoise : noise = []
    · rw [hnoise, List.nil_append] at hrx
      rw [hmarker0 s hrx, State.withRx_self hrx]
    · rw [drain_of_discard (scanStep_of_noise_marker0 hnone hnoise hrx), hmarker0 _ rfl]
  · rw [if_neg (mt Option.some.inj hlast), drain_of_discard (scanStep_of_noise hnone hlast hrx), hempty _ rfl]

/-- Settles O42: the buffer keeps the end of the noise, in which no marker stands either. -/
theorem pureNoiseYieldsNothing : Obligations.PureNoiseYieldsNothing := by
  intro s noise hcap hrx hne hnone
  have hingest : ingest noise s = { s with rx := noise.drop (noise.length - s.cfg.bufCap), dataReady := true } := by
    rw [ingest_of_ne_nil hne, State.append, bufAppend_eq_drop (by omega) (by simp [hrx]), hrx]
    simp [State.setReady]
  have hnone' : findMarker (ingest noise s).rx = none := by
    rw [hingest, findMarker_eq_none_iff]
    exact fun j => mt (markerAt_drop_iff noise _ j).mp (hnone _)
  have hlast : (ingest noise s).rx.getLast? = noise.getLast? := by
    have := List.length_pos_of_ne_nil hne
    rw [hingest, List.getLast?_drop, if_neg (by omega)]
  rw [performAll_ingest_drain (drain_of_noMarker hnone'), hlast, hingest]
  rfl

end Sys2Proof.Machine
end

section
/-! The statistics counters (R27, R28, R170, R171): STATS_READ and STATS_CLEAR, and the order in which no operation but
STATS_CLEAR and RESET takes a counter down. -/

namespace Sys2Proof

/-- A counter's own index names it (R170). -/
theorem Counter.ofByte_code (k : Counter) : Counter.ofByte k.code = some k := (Counter.ofByte_eq_some_iff _ k).mpr rfl

end Sys2Proof

namespace Sys2Proof.Machine

/-! ### Reading and clearing -/

theorem exec_statsRead (k : Counter) (s : State) :
    exec (.statsRead k) s = .next { s with returned := .count (s.counter k) } := rfl

theorem exec_statsClear (s : State) : exec .statsClear s = .next
    { s with statOk := 0, statCrcErr := 0, statLenErr := 0, statUnsupported := 0, returned := .nothing } := rfl

/-! ### The order on the counters -/

/-- A counter at its largest value stays there (R28). -/
theorem satInc_counterMax (c : Config) : satInc c (counterMax c) = counterMax c := if_neg (Nat.lt_irrefl _)

theorem le_satInc (c : Config) (n : Nat) : n ≤ satInc c n := by
  unfold satInc
  split
  · exact Nat.le_succ n
  · exact le_rfl

/-- No counter of `t` is smaller than that of `s`. -/
structure State.CountersLe (s t : State) : Prop where
  ok : s.statOk ≤ t.statOk
  crcErr : s.statCrcErr ≤ t.statCrcErr
  lenErr : s.statLenErr ≤ t.statLenErr
  unsupported : s.statUnsupported ≤ t.statUnsupported

theorem State.CountersLe.refl (s : State) : s.CountersLe s := ⟨le_rfl, le_rfl, le_rfl, le_rfl⟩

theorem State.CountersLe.trans {s t u : State} (hst : s.CountersLe t) (htu : t.CountersLe u) : s.CountersLe u :=
  ⟨hst.ok.trans htu.ok, hst.crcErr.trans htu.crcErr, hst.lenErr.trans htu.lenErr, hst.unsupported.trans htu.unsupported⟩

theorem State.CountersLe.handBack {s t : State} (h : s.CountersLe t) (r : Returned) : s.CountersLe (t.handBack r) :=
  ⟨h.ok, h.crcErr, h.lenErr, h.unsupported⟩

theorem ingest_countersLe (chunk : List Byte) (s : State) : s.CountersLe (ingest chunk s) := by
  rw [ingest_eq]
  exact ⟨le_rfl, le_rfl, le_rfl, le_rfl⟩

/-- A SCAN_STEP touches a counter only to increment it (R143). -/
theorem scanStep_countersLe {s : State} {r : ScanResult} {s' : State} (h : scanStep s = (r, s')) : s.CountersLe s' := by
  obtain ⟨-, rfl⟩ | ⟨n, -, -, -, rfl⟩ | ⟨-, -, rfl⟩ | ⟨-, -, rfl⟩ | ⟨-, -, rfl⟩ | ⟨f, n, -, -, -, rfl⟩ :=
    scanStep_shape h
  · exact .refl _
  · exact ⟨le_rfl, le_rfl, le_rfl, le_rfl⟩
  · exact ⟨le_rfl, le_rfl, le_rfl, le_satInc _ _⟩
  · exact ⟨le_rfl, le_rfl, le_satInc _ _, le_rfl⟩
  · exact ⟨le_rfl, le_satInc _ _, le_rfl, le_rfl⟩
  · exact ⟨le_satInc _ _, le_rfl, le_rfl, le_rfl⟩

theorem drainNext_countersLe (s : State) : s.CountersLe (drainNext s).2 :=
  drainNext_induct (fun _ _ _ h hs => h.trans (scanStep_countersLe hs)) (.refl s)

theorem drain_countersLe (s : State) : s.CountersLe (drain s).2 :=
  drain_induct (fun _ _ _ h hs => h.trans (scanStep_countersLe hs)) (.refl s)

theorem receiveFrame_countersLe {bytes : List Byte} {s t : State} (ht : receiveFrame bytes s = .next t) :
    s.CountersLe t := by
  cases ht
  exact ((ingest_countersLe bytes s).trans (drain_countersLe _)).handBack _

/-- No operation but STATS_CLEAR and RESET makes a counter smaller: the scan increments, the others leave them alone. -/
theorem exec_countersLe {i : Instr} {s t : State} (hclear : i ≠ .statsClear) (hreset : i ≠ .reset)
    (ht : exec i s = .next t) : s.CountersLe t := by
  cases i with
  | statsClear => exact absurd rfl hclear
  | reset => exact absurd rfl hreset
  | command | heartbeat | heartbeatAck | reserved20 | reserved40 | unsupportedId => exact receiveFrame_countersLe ht
  | ingest chunk => cases ht; exact (ingest_countersLe chunk s).handBack _
  | scanStep => cases ht; exact (scanStep_countersLe rfl).handBack _
  | drainNext => cases ht; exact (drainNext_countersLe s).handBack _
  | drain => cases ht; exact (drain_countersLe s).handBack _
  | statsRead | crcInit | crcByte | crcRead | crcBlock | encodeFrame | decodeFrame | packCmd | unpackCmd | readyClear =>
    cases ht
    exact ⟨le_rfl, le_rfl, le_rfl, le_rfl⟩

/-- Settles O3: the one update of STATS_CLEAR, the two branches of an increment, and the order that every other operation
keeps. -/
theorem countersSaturateAndAreClearedTogether : Obligations.CountersSaturateAndAreClearedTogether := by
  refine ⟨exec_statsClear, fun c => ⟨satInc_counterMax c, fun _ => satInc_of_lt⟩, fun i s t hclear hreset ht => ?_⟩
  obtain ⟨hok, hcrc, hlen, huns⟩ := exec_countersLe hclear hreset ht
  exact ⟨hok, hcrc, hlen, huns⟩

/-- Settles O2: STATS_READ hands back the counter named, and the four indexes are the four codes. -/
theorem statsReadReturnsTheIndexedCounter : Obligations.StatsReadReturnsTheIndexedCounter :=
  ⟨fun s => ⟨exec_statsRead .ok s, exec_statsRead .crcErr s, exec_statsRead .lenErr s, exec_statsRead .unsupported s⟩,
    Counter.ofByte_code .ok, Counter.ofByte_code .crcErr, Counter.ofByte_code .lenErr, Counter.ofByte_code .unsupported,
    fun _ => Counter.ofByte_eq_none, fun _ _ => rfl⟩

end Sys2Proof.Machine
end

section
/-! No operation faults (R180), and what each agent can do within its rights (R190). -/

namespace Sys2Proof.Machine

/-- Settles O47: every instruction answers a next state, and R180 leaves no fault for a step to answer. -/
theorem nothingFaults : Obligations.NothingFaults :=
  ⟨exec_isNext, fun _ e => nomatch e⟩

/-! ### The buffer under the drain operations -/

/-- A SCAN_STEP takes bytes from the front of the buffer only (R147). -/
theorem scanStep_rx_suffix {s s' : State} {r : ScanResult} (h : scanStep s = (r, s')) : s'.rx <:+ s.rx := by
  obtain ⟨-, rfl⟩ | ⟨-, k, -, -, hrx, -⟩ := scanStep_progress h
  · exact List.suffix_rfl
  · exact hrx ▸ List.drop_suffix k s.rx

theorem drainNext_rx_suffix (s : State) : (drainNext s).2.rx <:+ s.rx :=
  drainNext_induct (P := fun u => u.rx <:+ s.rx) (fun _ _ _ h hs => (scanStep_rx_suffix hs).trans h) List.suffix_rfl

theorem drain_rx_suffix (s : State) : (drain s).2.rx <:+ s.rx :=
  drain_induct (P := fun u => u.rx <:+ s.rx) (fun _ _ _ h hs => (scanStep_rx_suffix hs).trans h) List.suffix_rfl

/-- The three drain operations take bytes from the front of the buffer only (R143 to R145). -/
theorem exec_rx_suffix {i : Instr} {s t : State} (hi : i = .scanStep ∨ i = .drainNext ∨ i = .drain)
    (ht : exec i s = .next t) : t.rx <:+ s.rx := by
  obtain rfl | rfl | rfl := hi <;> cases ht
  · exact scanStep_rx_suffix (s' := (scanStep s).2) rfl
  · exact drainNext_rx_suffix s
  · exact drain_rx_suffix s

/-! ### The rights -/

/-- The states that an agent within its rights can make of `s` with one operation, the result handed back left open (R190). -/
inductive State.RightfulUpdate (s : State) : Agent → State → Prop
  /-- Every agent: the pure operations and STATS_READ; the Sender's CRC_READ. -/
  | handBack (a : Agent) (r : Returned) : s.RightfulUpdate a (s.handBack r)
  | ingest (chunk : List Byte) : s.RightfulUpdate .producer ((ingest chunk s).handBack .nothing)
  /-- SCAN_STEP, DRAIN_NEXT and DRAIN; the counters may change. -/
  | drain {t : State} (keeps : s.ScanKeeps t) (suffix : t.rx <:+ s.rx) : s.RightfulUpdate .consumer t
  | clearReady : s.RightfulUpdate .consumer (s.clearReady.handBack .nothing)
  /-- CRC_INIT and CRC_BYTE. -/
  | crc (c : U16) : s.RightfulUpdate .sender ({ s with crcAcc := c }.handBack .nothing)
  | clearCounters : s.RightfulUpdate .operator (s.clearCounters.handBack .nothing)
  | reset : s.RightfulUpdate .operator ({ State.construct s.cfg with requests := s.requests }.handBack .nothing)

/-- An operation that its agent may issue is one of these updates. -/
theorem exec_rightfulUpdate {a : Agent} {i : Instr} {s t : State} (ha : a.mayIssue i = true) (ht : exec i s = .next t) :
    s.RightfulUpdate a t := by
  have drains (hi : i = .scanStep ∨ i = .drainNext ∨ i = .drain) : s.RightfulUpdate .consumer t :=
    .drain (exec_scanKeeps hi ht) (exec_rx_suffix hi ht)
  cases i with
  | command | heartbeat | heartbeatAck | reserved20 | reserved40 | unsupportedId => cases ha
  | statsRead | crcRead | crcBlock | encodeFrame | decodeFrame | packCmd | unpackCmd => cases ht; exact .handBack a _
  | ingest chunk => cases eq_of_beq ha; cases ht; exact .ingest chunk
  | scanStep | drainNext | drain => cases eq_of_beq ha; exact drains (by simp)
  | readyClear => cases eq_of_beq ha; cases ht; exact .clearReady
  | crcInit | crcByte => cases eq_of_beq ha; cases ht; exact .crc _
  | statsClear => cases eq_of_beq ha; cases ht; exact .clearCounters
  | reset => cases eq_of_beq ha; cases ht; exact .reset

/-- Settles O53: each update that an agent's rights allow, read element by element. -/
theorem agentsWriteOnlyWhatTheyOwn : Obligations.AgentsWriteOnlyWhatTheyOwn := by
  intro a i s t ha ht
  cases exec_rightfulUpdate ha ht with
  | handBack =>
    exact ⟨fun _ => ⟨0, rfl⟩, fun _ => ⟨[], rfl⟩, fun _ => ⟨rfl, rfl⟩, fun _ => id, fun _ => id,
      fun _ => ⟨rfl, rfl, rfl, rfl⟩, fun _ => rfl⟩
  | ingest chunk =>
    rw [ingest_eq]
    exact ⟨absurd rfl, fun _ => ⟨chunk, rfl⟩, nofun, absurd rfl, fun _ hready => by simp [hready],
      fun _ => ⟨rfl, rfl, rfl, rfl⟩, fun _ => rfl⟩
  | drain keeps suffix =>
    exact ⟨fun _ => ⟨_, List.suffix_iff_eq_drop.mp suffix⟩, nofun, nofun, fun _ => keeps.dataReady.trans, nofun, nofun,
      fun _ => keeps.crcAcc⟩
  | clearReady =>
    exact ⟨fun _ => ⟨0, rfl⟩, nofun, nofun, fun _ _ => rfl, nofun, nofun, fun _ => rfl⟩
  | crc =>
    exact ⟨fun _ => ⟨0, rfl⟩, nofun, fun _ => ⟨rfl, rfl⟩, fun _ => id, nofun, fun _ => ⟨rfl, rfl, rfl, rfl⟩, nofun⟩
  | clearCounters =>
    exact ⟨fun _ => ⟨0, rfl⟩, nofun, nofun, fun _ => id, nofun, nofun, fun _ => rfl⟩
  | reset =>
    exact ⟨fun _ => ⟨s.rxLen, List.drop_length.symm⟩, nofun, nofun, fun _ _ => rfl, nofun, nofun, nofun⟩

end Sys2Proof.Machine
end

section
/-! The lost wake-up (R205): a READY_CLEAR after an INGEST leaves every byte to the next DRAIN; and the consumer's duties,
one equation per operation of the handshake (R204, log entry 13). -/

namespace Sys2Proof.Machine

theorem performAll_cons {i : Instr} {s t : State} (ht : exec i s = .next t) (is : List Instr) :
    performAll (i :: is) s = performAll is t := by
  rw [performAll, ht]

theorem performAll_singleton_iff {i : Instr} {s t : State} : performAll [i] s = some t ↔ exec i s = .next t := by
  obtain ⟨t', ht'⟩ := exec_isNext i s
  simp [performAll, ht']

/-! ### The duties, operation by operation -/

theorem allows_drainOperation {i : Instr} (hi : i = .scanStep ∨ i = .drainNext ∨ i = .drain) (h : Handshake) :
    h.allows i = h.seen := by
  obtain rfl | rfl | rfl := hi <;> rfl

theorem keepsHandshake_of_not_allows {h : Handshake} {i : Instr} (hi : h.allows i = false) (es : List Event) (s : State) :
    keepsHandshake h (.perform i :: es) s = false := by
  obtain ⟨t, ht⟩ := exec_isNext i s
  rw [keepsHandshake_perform ht, hi, Bool.false_and]

theorem keepsHandshake_drain (h : Handshake) (es : List Event) {s t : State} (ht : exec .drain s = .next t) :
    keepsHandshake h (.perform .drain :: es) s = (h.seen && keepsHandshake (afterDrain h t.returned) es t) :=
  keepsHandshake_perform ht h es

theorem keepsHandshake_ingest (h : Handshake) (chunk : List Byte) (es : List Event) (s : State) :
    keepsHandshake h (.perform (.ingest chunk) :: es) s = keepsHandshake h es ((ingest chunk s).handBack .nothing) :=
  keepsHandshake_perform (exec_ingest chunk s) h es

/-- A history that ends with a READY_CLEAR is in order there exactly after a drain operation of the round, every frame
handed on. -/
theorem keepsHandshake_readyClear_iff (h : Handshake) (s : State) :
    keepsHandshake h [.perform .readyClear] s = true ↔ h.drained = true ∧ h.pending = 0 := by
  rw [keepsHandshake_perform (readyClearClearsOnlyTheFlag s), keepsHandshake_nil, Bool.and_true, allows_readyClear_iff]

theorem frameCount_drain_eq_zero_iff {s t : State} (ht : exec .drain s = .next t) :
    t.returned.frameCount = 0 ↔ t.returned = .frames [] := by
  cases ht
  simp [State.handBack, Returned.frameCount]

/-! ### The claim -/

/-- A READY_CLEAR after an INGEST takes the flag and nothing else (R146). -/
theorem exec_readyClear_of_ingest {chunk : List Byte} {s t : State} (ht : exec (.ingest chunk) s = .next t) :
    exec .readyClear t = .next { t with dataReady := false } := by
  cases ht
  rfl

/-- Settles O27: a DRAIN reads neither the flag nor the last result (R26), and each history meets or breaks the duty of its
last operation. -/
theorem lostWakeUpLosesNoBytes : Obligations.LostWakeUpLosesNoBytes := by
  refine ⟨?losesNothing, ?meetsTheWindow, ?drainsUnseen, ?clearsUndrained, ?clearsPending⟩
  case losesNothing =>
    intro chunk s t u v ht hu hv
    have ht : exec (.ingest chunk) s = .next t := performAll_singleton_iff.mp ht
    rw [performAll_cons ht, performAll_singleton_iff] at hu hv
    obtain rfl : { t with dataReady := false } = u := Host.Outcome.next.inj ((exec_readyClear_of_ingest ht).symm.trans hu)
    have hdrain := (drainsIgnoreTheFlag .drain t v false (by simp) hv).2
    exact ⟨rfl, rfl, _, hdrain, rfl, rfl, rfl, rfl, rfl, rfl⟩
  case meetsTheWindow =>
    intro chunk s hready
    rw [keepsHandshake_look, keepsHandshake_drain _ _ (exec_drain s), keepsHandshake_handOn, keepsHandshake_ingest,
      Bool.and_eq_true, keepsHandshake_readyClear_iff]
    exact ⟨hready, rfl, rfl⟩
  case drainsUnseen =>
    intro i s hi hready
    rw [keepsHandshake_look]
    exact keepsHandshake_of_not_allows ((allows_drainOperation hi _).trans hready) [] s
  case clearsUndrained =>
    intro s
    rw [keepsHandshake_look]
    exact keepsHandshake_of_not_allows rfl [] s
  case clearsPending =>
    intro s t hready ht
    rw [keepsHandshake_look, keepsHandshake_drain _ _ ht, Bool.and_eq_true, keepsHandshake_readyClear_iff,
      ← frameCount_drain_eq_zero_iff ht]
    simp [newRound, afterDrain, hready]

end Sys2Proof.Machine
end
